-- ==== Sys2Proof/Word.lean ====
section
/-!
DEFINITION. The word types of the block. Every value the spec gives a width is a bit vector of that width, and all
of them are unsigned (R8, R9). Register indices are numbers below 16 (R21, R94).
-/
namespace Sys2Proof

/-- An 8-bit value: a general register, a timer, a byte of memory, an 8-bit immediate (R9, R21, R35, R93). -/
abbrev Byte := BitVec 8

/-- A 12-bit address: the program counter, a stack entry, the field `nnn` (R25, R31, R93). -/
abbrev Addr := BitVec 12

/-- A 16-bit value: an instruction word, the index register (R28, R90). -/
abbrev Word := BitVec 16

/-- A 4-bit value: a nibble of an instruction word, the row count `n` (R91, R93). -/
abbrev Nibble := BitVec 4

/-- A register index, `V0` to `VF` (R21, R94). -/
abbrev Reg := Fin 16

/-- `VF`, the register that is also the flag (R22). -/
abbrev Reg.vf : Reg := 15

end Sys2Proof
end

