-- ==== Sys2Proof/Syntax.lean ====
section
/-!
DEFINITION. The instructions: one constructor for each of the 35 rows of the opcode map (R97). Operands are the fields
`x`, `y`, `n`, `nn`, `nnn` of the word, in the order of the pattern (R12, R91).
-/
namespace Sys2Proof

/-- The 35 instructions of R97. -/
inductive Instr
  /-- `00E0`, CLS (R251). -/
  | cls
  /-- `00EE`, RET (R152). -/
  | ret
  /-- `0nnn`, SYS nnn (R129). -/
  | sys (nnn : Addr)
  /-- `1nnn`, JP nnn (R153). -/
  | jp (nnn : Addr)
  /-- `2nnn`, CALL nnn (R154). -/
  | call (nnn : Addr)
  /-- `3xnn`, SE Vx, nn (R155). -/
  | seImm (x : Reg) (nn : Byte)
  /-- `4xnn`, SNE Vx, nn (R156). -/
  | sneImm (x : Reg) (nn : Byte)
  /-- `5xy0`, SE Vx, Vy (R157). -/
  | seReg (x y : Reg)
  /-- `6xnn`, LD Vx, nn (R181). -/
  | ldImm (x : Reg) (nn : Byte)
  /-- `7xnn`, ADD Vx, nn (R182). -/
  | addImm (x : Reg) (nn : Byte)
  /-- `8xy0`, LD Vx, Vy (R183). -/
  | ldReg (x y : Reg)
  /-- `8xy1`, OR Vx, Vy (R184). -/
  | orReg (x y : Reg)
  /-- `8xy2`, AND Vx, Vy (R185). -/
  | andReg (x y : Reg)
  /-- `8xy3`, XOR Vx, Vy (R186). -/
  | xorReg (x y : Reg)
  /-- `8xy4`, ADD Vx, Vy (R187). -/
  | addReg (x y : Reg)
  /-- `8xy5`, SUB Vx, Vy (R188). -/
  | subReg (x y : Reg)
  /-- `8xy6`, SHR Vx {, Vy}; `y` is decoded and ignored (R99, R189). -/
  | shr (x y : Reg)
  /-- `8xy7`, SUBN Vx, Vy (R190). -/
  | subnReg (x y : Reg)
  /-- `8xyE`, SHL Vx {, Vy}; `y` is decoded and ignored (R99, R191). -/
  | shl (x y : Reg)
  /-- `9xy0`, SNE Vx, Vy (R158). -/
  | sneReg (x y : Reg)
  /-- `Annn`, LD I, nnn (R221). -/
  | ldI (nnn : Addr)
  /-- `Bnnn`, JP V0, nnn (R159). -/
  | jpV0 (nnn : Addr)
  /-- `Cxnn`, RND Vx, nn (R197). -/
  | rnd (x : Reg) (nn : Byte)
  /-- `Dxyn`, DRW Vx, Vy, n (R252). -/
  | drw (x y : Reg) (n : Nibble)
  /-- `Ex9E`, SKP Vx (R271). -/
  | skp (x : Reg)
  /-- `ExA1`, SKNP Vx (R272). -/
  | sknp (x : Reg)
  /-- `Fx07`, LD Vx, DT (R273). -/
  | ldVxDt (x : Reg)
  /-- `Fx0A`, LD Vx, K (R274). -/
  | ldVxK (x : Reg)
  /-- `Fx15`, LD DT, Vx (R275). -/
  | ldDtVx (x : Reg)
  /-- `Fx18`, LD ST, Vx (R276). -/
  | ldStVx (x : Reg)
  /-- `Fx1E`, ADD I, Vx (R222). -/
  | addI (x : Reg)
  /-- `Fx29`, LD F, Vx (R223). -/
  | ldF (x : Reg)
  /-- `Fx33`, LD B, Vx (R224). -/
  | ldB (x : Reg)
  /-- `Fx55`, LD [I], Vx (R225). -/
  | storeRegs (x : Reg)
  /-- `Fx65`, LD Vx, [I] (R226). -/
  | loadRegs (x : Reg)
  deriving DecidableEq, Repr

end Sys2Proof
end

