-- ==== Sys2Proof/Decode.lean ====
section
/-!
DEFINITION. The decoder (R133), total on every word and every byte list, and after it the encoder, written from the
same opcode map (R97). Words no row of the map matches are rejected by name (R103); how such a word EXECUTES (a no-op
with a diagnostic) is R128 and stands in Machine/Cycle.lean.
-/
namespace Sys2Proof

/-- Why a word is no instruction: the group of R103 it falls in, or too few bytes to hold a word (R90). -/
inductive Unrecognized
  /-- `5xyk` with k ≠ 0 (R102). -/
  | group5 (k : Nibble)
  /-- `8xyk` with k in {8, 9, A, B, C, D, F} (R99). -/
  | group8 (k : Nibble)
  /-- `9xyk` with k ≠ 0 (R102). -/
  | group9 (k : Nibble)
  /-- `Exkk` with kk not 9E or A1 (R100). -/
  | groupE (kk : Byte)
  /-- `Fxkk` with kk none of the nine function codes (R101). -/
  | groupF (kk : Byte)
  /-- Fewer than the two bytes of an instruction (R90). -/
  | truncated
  deriving DecidableEq, Repr

/-- Nibble 1, the major opcode `c` = `op[15:12]` (R91). -/
def opMajor (op : Word) : Nibble := op.extractLsb' 12 4

/-- `x` = `op[11:8]` (R12, R91). -/
def fieldX (op : Word) : Reg := (op.extractLsb' 8 4).toFin

/-- `y` = `op[7:4]` (R12, R91). -/
def fieldY (op : Word) : Reg := (op.extractLsb' 4 4).toFin

/-- `n` = `op[3:0]` (R12, R91). -/
def fieldN (op : Word) : Nibble := op.extractLsb' 0 4

/-- `nn` = `op[7:0]` (R12, R91). -/
def fieldNN (op : Word) : Byte := op.extractLsb' 0 8

/-- `nnn` = `op[11:0]` (R12, R91). -/
def fieldNNN (op : Word) : Addr := op.extractLsb' 0 12

/-- The 0-group: the two fixed words before the `0nnn` row (R95, R98). -/
def decodeGroup0 (op : Word) : Instr :=
  if op = 0x00E0#16 then .cls else if op = 0x00EE#16 then .ret else .sys (fieldNNN op)

/-- The 8-group, selected by nibble 4 (R99). -/
def decodeGroup8 (op : Word) : Except Unrecognized Instr :=
  match fieldN op with
  | 0x0#4 => .ok (.ldReg (fieldX op) (fieldY op))
  | 0x1#4 => .ok (.orReg (fieldX op) (fieldY op))
  | 0x2#4 => .ok (.andReg (fieldX op) (fieldY op))
  | 0x3#4 => .ok (.xorReg (fieldX op) (fieldY op))
  | 0x4#4 => .ok (.addReg (fieldX op) (fieldY op))
  | 0x5#4 => .ok (.subReg (fieldX op) (fieldY op))
  | 0x6#4 => .ok (.shr (fieldX op) (fieldY op))
  | 0x7#4 => .ok (.subnReg (fieldX op) (fieldY op))
  | 0xE#4 => .ok (.shl (fieldX op) (fieldY op))
  | k => .error (.group8 k)

/-- The E-group, selected by `nn` (R100). -/
def decodeGroupE (op : Word) : Except Unrecognized Instr :=
  match fieldNN op with
  | 0x9E#8 => .ok (.skp (fieldX op))
  | 0xA1#8 => .ok (.sknp (fieldX op))
  | kk => .error (.groupE kk)

/-- The F-group, selected by `nn` (R101). -/
def decodeGroupF (op : Word) : Except Unrecognized Instr :=
  match fieldNN op with
  | 0x07#8 => .ok (.ldVxDt (fieldX op))
  | 0x0A#8 => .ok (.ldVxK (fieldX op))
  | 0x15#8 => .ok (.ldDtVx (fieldX op))
  | 0x18#8 => .ok (.ldStVx (fieldX op))
  | 0x1E#8 => .ok (.addI (fieldX op))
  | 0x29#8 => .ok (.ldF (fieldX op))
  | 0x33#8 => .ok (.ldB (fieldX op))
  | 0x55#8 => .ok (.storeRegs (fieldX op))
  | 0x65#8 => .ok (.loadRegs (fieldX op))
  | kk => .error (.groupF kk)

/-- `Decode(op)` (R133). -/
def decode (op : Word) : Except Unrecognized Instr :=
  match opMajor op with
  | 0x0#4 => .ok (decodeGroup0 op)
  | 0x1#4 => .ok (.jp (fieldNNN op))
  | 0x2#4 => .ok (.call (fieldNNN op))
  | 0x3#4 => .ok (.seImm (fieldX op) (fieldNN op))
  | 0x4#4 => .ok (.sneImm (fieldX op) (fieldNN op))
  | 0x5#4 => if fieldN op = 0 then .ok (.seReg (fieldX op) (fieldY op)) else .error (.group5 (fieldN op))
  | 0x6#4 => .ok (.ldImm (fieldX op) (fieldNN op))
  | 0x7#4 => .ok (.addImm (fieldX op) (fieldNN op))
  | 0x8#4 => decodeGroup8 op
  | 0x9#4 => if fieldN op = 0 then .ok (.sneReg (fieldX op) (fieldY op)) else .error (.group9 (fieldN op))
  | 0xA#4 => .ok (.ldI (fieldNNN op))
  | 0xB#4 => .ok (.jpV0 (fieldNNN op))
  | 0xC#4 => .ok (.rnd (fieldX op) (fieldNN op))
  | 0xD#4 => .ok (.drw (fieldX op) (fieldY op) (fieldN op))
  | 0xE#4 => decodeGroupE op
  | _ => decodeGroupF op

/-- `hi : lo`, the word of two bytes, high byte first (R8, R64). -/
def wordOfBytes (hi lo : Byte) : Word := hi ++ lo

/-- Decoding at the head of a byte list: one word, high byte first, and the rest (R64, R90). -/
def decodeBytes : List Byte → Except Unrecognized (Instr × List Byte)
  | hi :: lo :: rest =>
    match decode (wordOfBytes hi lo) with
    | .ok i => .ok (i, rest)
    | .error e => .error e
  | _ => .error .truncated

/-- The two bytes of a word as memory holds them, high byte first (R65). -/
def bytesOfWord (op : Word) : List Byte := [op.extractLsb' 8 8, op.extractLsb' 0 8]

/-- What the decoder reads from the instruction whose bits are `w`, the bits above `nbits` being 0. -/
def decodeTableWord (nbits w : Nat) : Option Instr :=
  match decodeBytes (bytesOfWord (BitVec.ofNat 16 (w % 2 ^ nbits))) with
  | .ok (i, _) => some i
  | .error _ => none

/-- A word of format FA: `c n n n` (R92). -/
def packA (c : Nibble) (nnn : Addr) : Word := c ++ nnn

/-- A word of format FXK, or of FX with `nn` the fixed function code: `c x n n` (R92). -/
def packXK (c : Nibble) (x : Reg) (nn : Byte) : Word := c ++ (BitVec.ofFin x : Nibble) ++ nn

/-- A word of format FXYN, or of FXY with `n` the fixed sub-opcode: `c x y n` (R92). -/
def packXYN (c : Nibble) (x y : Reg) (n : Nibble) : Word :=
  c ++ (BitVec.ofFin x : Nibble) ++ (BitVec.ofFin y : Nibble) ++ n

/-- The word of an instruction, from the patterns of R97. -/
def encode : Instr → Word
  | .cls => 0x00E0#16
  | .ret => 0x00EE#16
  | .sys nnn => packA 0x0#4 nnn
  | .jp nnn => packA 0x1#4 nnn
  | .call nnn => packA 0x2#4 nnn
  | .seImm x nn => packXK 0x3#4 x nn
  | .sneImm x nn => packXK 0x4#4 x nn
  | .seReg x y => packXYN 0x5#4 x y 0x0#4
  | .ldImm x nn => packXK 0x6#4 x nn
  | .addImm x nn => packXK 0x7#4 x nn
  | .ldReg x y => packXYN 0x8#4 x y 0x0#4
  | .orReg x y => packXYN 0x8#4 x y 0x1#4
  | .andReg x y => packXYN 0x8#4 x y 0x2#4
  | .xorReg x y => packXYN 0x8#4 x y 0x3#4
  | .addReg x y => packXYN 0x8#4 x y 0x4#4
  | .subReg x y => packXYN 0x8#4 x y 0x5#4
  | .shr x y => packXYN 0x8#4 x y 0x6#4
  | .subnReg x y => packXYN 0x8#4 x y 0x7#4
  | .shl x y => packXYN 0x8#4 x y 0xE#4
  | .sneReg x y => packXYN 0x9#4 x y 0x0#4
  | .ldI nnn => packA 0xA#4 nnn
  | .jpV0 nnn => packA 0xB#4 nnn
  | .rnd x nn => packXK 0xC#4 x nn
  | .drw x y n => packXYN 0xD#4 x y n
  | .skp x => packXK 0xE#4 x 0x9E#8
  | .sknp x => packXK 0xE#4 x 0xA1#8
  | .ldVxDt x => packXK 0xF#4 x 0x07#8
  | .ldVxK x => packXK 0xF#4 x 0x0A#8
  | .ldDtVx x => packXK 0xF#4 x 0x15#8
  | .ldStVx x => packXK 0xF#4 x 0x18#8
  | .addI x => packXK 0xF#4 x 0x1E#8
  | .ldF x => packXK 0xF#4 x 0x29#8
  | .ldB x => packXK 0xF#4 x 0x33#8
  | .storeRegs x => packXK 0xF#4 x 0x55#8
  | .loadRegs x => packXK 0xF#4 x 0x65#8

end Sys2Proof
end

