-- ==== Sys2Proof/Config.lean ====
section
/-!
DEFINITION. The implementation parameters of R7 and the one free value of the block (R195). The parameters that R7
says a model takes as arguments (`STACK_DEPTH`, `LOAD_TRAILER`, `RND_MODE`, `FONT`) are the fields of `Config`; a
machine carries one `Config` and no step changes it. Their default values stand in Machine/Defaults.lean.
-/
namespace Sys2Proof

/-- `MEM_SIZE` (R7, R35). -/
abbrev memSize : Nat := 4096

/-- `RND_MODE`: the two readings of RND's result set (R194). -/
inductive RndMode
  | range
  | mask
  deriving DecidableEq, Repr

/-- The parameters a model takes as arguments (R7). -/
structure Config where
  /-- `STACK_DEPTH`: how many return addresses the call stack holds (R30, decision D2). -/
  stackDepth : Nat
  /-- `LOAD_TRAILER`: bytes at the top of memory that `load` keeps free (R351, decision D24). -/
  loadTrailer : Nat
  /-- `RND_MODE` (R194, decision D18). -/
  rndMode : RndMode
  /-- `FONT`: the 80 bytes reset puts at 0x000 (R71, decision D23). -/
  font : Vector Byte 80
  deriving DecidableEq, Repr

/-- The random byte of the k-th cycle, `draw()`: any byte, under no law (R195). A FREE VALUE: it has no body, so no
proof can see which byte it is (notes/assumptions/2.md). -/
opaque Config.freeByte : Nat → Byte

end Sys2Proof
end

