-- ==== Sys2Proof/Machine/Defaults.lean ====
section
/-!
DEFINITION. The default value of every parameter a model takes as an argument (R7), and the addresses reset and `load`
use. A machine may carry any other `Config`; `Config.standard` is the one the machine right after reset carries.
-/
namespace Sys2Proof.Machine

/-- `PC_START` (R7, R73, R343). -/
def pcStart : Nat := 0x200

/-- `STACK_DEPTH`'s default (R7, decision D2). -/
def defaultStackDepth : Nat := 16

/-- `LOAD_TRAILER`'s default (R7, R351, decision D24). -/
def defaultLoadTrailer : Nat := 0

/-- `RND_MODE`'s default, the source's recommendation (R7, R194, decision D18). -/
def defaultRndMode : RndMode := .range

/-- `FONT`'s default: the table of R71, one glyph a line, digits 0 to F. -/
def defaultGlyphs : List (List Byte) :=
  [[0xF0, 0x90, 0x90, 0x90, 0xF0],
   [0x20, 0x60, 0x20, 0x20, 0x70],
   [0xF0, 0x10, 0xF0, 0x80, 0xF0],
   [0xF0, 0x10, 0xF0, 0x10, 0xF0],
   [0x90, 0x90, 0xF0, 0x10, 0x10],
   [0xF0, 0x80, 0xF0, 0x10, 0xF0],
   [0xF0, 0x80, 0xF0, 0x90, 0xF0],
   [0xF0, 0x10, 0x20, 0x40, 0x40]] ++
  [[0xF0, 0x90, 0xF0, 0x90, 0xF0],
   [0xF0, 0x90, 0xF0, 0x10, 0xF0],
   [0xF0, 0x90, 0xF0, 0x90, 0x90],
   [0xE0, 0x90, 0xE0, 0x90, 0xE0],
   [0xF0, 0x80, 0x80, 0x80, 0xF0],
   [0xE0, 0x90, 0x90, 0x90, 0xE0],
   [0xF0, 0x80, 0xF0, 0x80, 0xF0],
   [0xF0, 0x80, 0xF0, 0x80, 0x80]]

/-- The 80 bytes of the default font (R71). -/
def defaultFont : Vector Byte 80 := ⟨⟨defaultGlyphs.flatten⟩, by decide⟩

/-- The parameters at their defaults (R7). -/
def standardConfig : Config :=
  { stackDepth := defaultStackDepth, loadTrailer := defaultLoadTrailer, rndMode := defaultRndMode, font := defaultFont }

end Sys2Proof.Machine
end

