-- ==== Sys2Proof/Machine/State.lean ====
section
/-!
DEFINITION. The state of the block as plain data (R20), the reasons a step can stop, and the state right after reset
(R43, R340). Beside the thirteen pieces of R20 stand the per-cycle flag and record (R41, R47), which are defined afresh
in every cycle, the random byte of the cycle (R195), and the parameters (R7), which no step writes.
-/
namespace Sys2Proof.Machine

/-- `MEM` (R35): the bytes that differ from what memory holds right after reset, by rising address
(notes/assumptions/1.md). -/
abbrev Memory := List Host.Cell

/-- `FB` (R36): 32 rows of 64 pixels, row-major; `true` is on. -/
abbrev Screen := Vector (Vector Bool 64) 32

/-- The diagnostic codes (R301), bit 7 being reserved. -/
inductive Diag
  | unknownOpcode
  | sysIgnored
  | pcWrap
  | addrWrap
  | iRange
  | stackOverflow
  | stackUnderflow
  deriving DecidableEq, Repr

/-- The code of a stack fault (R310). -/
inductive StackFault
  | overflow
  | underflow
  deriving DecidableEq, Repr

/-- The record a cycle returns (R47). -/
structure CycleOut where
  /-- `fb_changed` (R48). -/
  fbChanged : Bool
  /-- `sound_tick` (R49). -/
  soundTick : Bool
  /-- `diag`, the diagnostic mask (R302). -/
  diag : Byte
  deriving DecidableEq, Repr

/-- The record every cycle starts from, and that a halted cycle returns (R47, R121). -/
def CycleOut.none : CycleOut := { fbChanged := false, soundTick := false, diag := 0 }

/-- The state of the block (R20), and with it what one cycle defines afresh and what never changes. -/
structure State where
  /-- `V[0..15]` (R21). -/
  v : Vector Byte 16
  /-- `I` (R28). -/
  i : Word
  /-- `PC` (R25). -/
  pc : Addr
  /-- `SP`, the number of return addresses on the stack (R30). -/
  sp : Nat
  /-- `STACK[0..STACK_DEPTH-1]` (R31). -/
  stack : List Addr
  /-- `DT`, the delay timer (R32). -/
  dt : Byte
  /-- `ST`, the sound timer (R33). -/
  st : Byte
  /-- `MEM` (R35). -/
  mem : Memory
  /-- `FB` (R36). -/
  fb : Screen
  /-- `KEYS[0..15]` (R37). -/
  keys : Vector Bool 16
  /-- `HALTED` (R38). -/
  halted : Bool
  /-- `FAULT` (R39). -/
  fault : BitVec 2
  /-- `FB_DIRTY` (R40). -/
  fbDirty : Bool
  /-- `no_advance`, the per-cycle flag (R41): 0 between cycles. -/
  noAdvance : Bool
  /-- The record of the latest cycle (R47), as far as the running cycle has built it. -/
  out : CycleOut
  /-- `r = draw()`, the random byte of the running cycle (R46, R195): a free input, drawn afresh at the start of every
  cycle (notes/assumptions/2.md). -/
  draw : Byte
  /-- The model's own counter: how many random bytes have been drawn (notes/assumptions/2.md). -/
  draws : Nat
  /-- The parameters (R7), fixed for the machine (notes/assumptions/3.md). -/
  config : Config
  deriving DecidableEq, Repr

/-- The reasons a step ends in a fault: NONE. The one fatal event of the spec, the stack fault, has an effect that the
spec gives whole (R130, R310) and is a next state with `HALTED` = 1; "No operation may panic/crash the process on
malformed input" (R303). -/
inductive Fault
  deriving DecidableEq, Repr

/-- The reasons a step is refused. -/
inductive Refusal
  /-- Raised by exec's arm for an instruction that has no meaning yet; safe. No arm raises it: all 35 have theirs. -/
  | notModelled (mnemonic : String)
  deriving DecidableEq, Repr

/-- The state `reset()` gives under a choice of the parameters (R43, R340). Memory lists nothing: every byte is the
font's or 0. The last five fields are the model's (notes/assumptions/2.md, 3.md, 4.md). -/
def State.resetWith (c : Config) : State :=
  { v := Vector.replicate 16 0
    i := 0
    pc := BitVec.ofNat 12 pcStart
    sp := 0
    stack := List.replicate c.stackDepth 0
    dt := 0
    st := 0
    mem := []
    fb := Vector.replicate 32 (Vector.replicate 64 false)
    keys := Vector.replicate 16 false
    halted := false
    fault := 0
    fbDirty := true
    noAdvance := false
    out := CycleOut.none
    draw := 0
    draws := 0
    config := c }

/-- The machine right after reset (R43, R340, R341), with the default parameters of R7. -/
def State.reset : State := State.resetWith standardConfig

end Sys2Proof.Machine
end

