-- ==== Sys2Proof/Machine/Memory.lean ====
section
/-!
DEFINITION. `MEM` as a list of cells in one canonical form: what an unlisted address reads as, reading, writing, and
the form itself. Addresses here are already reduced below 4096; the access primitives of R62 and R63, which reduce and
report, stand in Machine/Ops.lean.
-/
namespace Sys2Proof.Machine

/-- What an unlisted address reads as: the byte reset leaves there, the font's in 0x000 - 0x04F and 0 elsewhere (R43,
R70). -/
def Memory.unlisted (font : Vector Byte 80) (a : Nat) : Byte :=
  if h : a < 80 then font[a] else 0

/-- `MEM[a]`. -/
def Memory.read (font : Vector Byte 80) : Memory → Nat → Byte
  | [], a => Memory.unlisted font a
  | (a', b) :: rest, a => if a = a' then b else Memory.read font rest a

/-- The entry for `a` before the rest of the list: none where `b` is what an unlisted address reads as. -/
def Memory.cons (font : Vector Byte 80) (a : Nat) (b : Byte) (rest : Memory) : Memory :=
  if b = Memory.unlisted font a then rest else (a, b) :: rest

/-- `MEM[a] <- b`. -/
def Memory.write (font : Vector Byte 80) : Memory → Nat → Byte → Memory
  | [], a, b => Memory.cons font a b []
  | (a', b') :: rest, a, b =>
    if a < a' then Memory.cons font a b ((a', b') :: rest)
    else if a = a' then Memory.cons font a b rest
    else (a', b') :: Memory.write font rest a b

/-- Addresses rise strictly from `lo` on, stay below 4096, and no entry repeats what an unlisted address reads as. -/
def Memory.wfFrom (font : Vector Byte 80) : Nat → Memory → Bool
  | _, [] => true
  | lo, (a, b) :: rest =>
    decide (lo ≤ a) && decide (a < memSize) && (b != Memory.unlisted font a) && Memory.wfFrom font (a + 1) rest

/-- The canonical form: equal memories are equal lists. -/
def Memory.wf (font : Vector Byte 80) (m : Memory) : Bool := Memory.wfFrom font 0 m

end Sys2Proof.Machine
end

