-- ==== Sys2Proof/Machine/Ops.lean ====
section
/-!
DEFINITION. The named operations over the state that the meanings and the cycle are built from: registers,
diagnostics, program counter, memory, call stack, the stack fault with the only way out of it, and the stages of the
cycle. Each follows the primitive of the spec its docstring names.
-/
namespace Sys2Proof.Machine

/-! ### Registers and timers (R10, R21) -/

/-- `V[x]`. -/
def State.reg (s : State) (x : Reg) : Byte := s.v[x]

/-- `V[x] <- b`. -/
def State.setReg (s : State) (x : Reg) (b : Byte) : State := { s with v := s.v.set x b }

/-- `I <- w`. -/
def State.setI (s : State) (w : Word) : State := { s with i := w }

/-- `DT <- b`. -/
def State.setDt (s : State) (b : Byte) : State := { s with dt := b }

/-- `ST <- b`. -/
def State.setSt (s : State) (b : Byte) : State := { s with st := b }

/-- Replaces the whole framebuffer. -/
def State.setFb (s : State) (fb : Screen) : State := { s with fb := fb }

/-! ### Diagnostics and the per-cycle record (R41, R47, R301, R302) -/

/-- The bit of `diag` a code sets (R301). -/
def Diag.mask : Diag → Byte
  | .unknownOpcode => 0x01
  | .sysIgnored => 0x02
  | .pcWrap => 0x04
  | .addrWrap => 0x08
  | .iRange => 0x10
  | .stackOverflow => 0x20
  | .stackUnderflow => 0x40

/-- `diag(NAME)`: the bits of one cycle accumulate (R302). -/
def State.report (s : State) (d : Diag) : State := { s with out := { s.out with diag := s.out.diag ||| d.mask } }

/-- `diag(NAME)` where the condition holds. -/
def State.reportIf (s : State) (c : Bool) (d : Diag) : State := if c then s.report d else s

/-- `fb_changed <- 1` (R48). -/
def State.markFbChanged (s : State) : State := { s with out := { s.out with fbChanged := true } }

/-- `sound_tick <- 1` (R49). -/
def State.markSoundTick (s : State) : State := { s with out := { s.out with soundTick := true } }

/-- `no_advance <- 1` (R41, R124). -/
def State.markNoAdvance (s : State) : State := { s with noAdvance := true }

/-! ### The program counter (R25, R26, R125, R151) -/

/-- Does a computation of `PC` leave memory (R26)? -/
def pcLeavesMemory (t : Nat) : Bool := decide (memSize ≤ t)

/-- `PC <- t mod 4096`, with `diag(PC_WRAP)` where `t` is 4096 or more (R26). -/
def State.setPc (s : State) (t : Nat) : State :=
  { s.reportIf (pcLeavesMemory t) .pcWrap with pc := BitVec.ofNat 12 t }

/-- `PC <- PC + 2`: the advance stage (R125), and the skip inside a handler (R151). -/
def State.advance (s : State) : State := s.setPc (s.pc.toNat + 2)

/-- `Skip()` where the condition holds (R151). -/
def State.skipIf (s : State) (c : Bool) : State := if c then s.advance else s

/-- `PC <- t mod 4096; no_advance <- 1`: a handler that sets the program counter itself (R124). -/
def State.jump (s : State) (t : Nat) : State := (s.setPc t).markNoAdvance

/-! ### Memory (R61 to R64) -/

/-- The address a computed integer reaches (R61). -/
def reduceAddr (a : Nat) : Nat := a % memSize

/-- `MEM[a mod 4096]`. -/
def State.byte (s : State) (a : Nat) : Byte := Memory.read s.config.font s.mem (reduceAddr a)

/-- Does a data address leave memory (R61)? -/
def addrLeavesMemory (a : Nat) : Bool := decide (memSize ≤ a)

/-- The diagnostic of a data access at `a` (R62, R63). -/
def State.noteAddr (s : State) (a : Nat) : State := s.reportIf (addrLeavesMemory a) .addrWrap

/-- `MemRead(a, 1)` (R62). -/
def State.memRead (s : State) (a : Nat) : Byte × State := (s.byte a, s.noteAddr a)

/-- `MEM[a mod 4096] <- b`. -/
def State.setByte (s : State) (a : Nat) (b : Byte) : State :=
  { s with mem := Memory.write s.config.font s.mem (reduceAddr a) b }

/-- `MemWrite(a, 1, b)` (R63). -/
def State.memWrite (s : State) (a : Nat) (b : Byte) : State := (s.noteAddr a).setByte a b

/-- The word at `PC`: two bytes, high byte first, the second at `(PC + 1) mod 4096` (R64). -/
def State.fetchWord (s : State) : Word := wordOfBytes (s.byte s.pc.toNat) (s.byte (s.pc.toNat + 1))

/-- The diagnostic of the fetch: its second byte lies past 0xFFF (R64). -/
def State.noteFetch (s : State) : State := s.reportIf (pcLeavesMemory (s.pc.toNat + 1)) .pcWrap

/-! ### The call stack (R30) -/

/-- `STACK[SP] <- ret; SP <- SP + 1`. -/
def State.push (s : State) (ret : Addr) : State := { s with stack := s.stack.set s.sp ret, sp := s.sp + 1 }

/-- `STACK[k]` (R31); every `k` a pop names is below the stack's depth where `SP` is legal (`State.Inv`). -/
def State.stackEntry (s : State) (k : Nat) : Addr := s.stack.getD k 0

/-- `SP <- SP - 1`. -/
def State.pop (s : State) : State := { s with sp := s.sp - 1 }

/-! ### The stack fault, and the way out of it (R310, R312) -/

/-- The diagnostic of a stack fault (R301). -/
def StackFault.diag : StackFault → Diag
  | .overflow => .stackOverflow
  | .underflow => .stackUnderflow

/-- The value of `FAULT` a stack fault leaves (R39, R310). -/
def StackFault.code : StackFault → BitVec 2
  | .overflow => 1
  | .underflow => 2

/-- `raise StackFault(code)` (R310): the diagnostic, `HALTED <- 1` and `FAULT`. Nothing else changes, and the cycle
ends here: `State.finishCycle` runs no later stage of a halted state. No register is saved and control goes nowhere
(R313). -/
def State.raiseStackFault (s : State) (f : StackFault) : State :=
  { s.report f.diag with halted := true, fault := f.code }

/-- `reset()` (R340), which with `load` is the only way out of the halted state (R312): there is no return from a
fault (R313). Every piece of the spec's state takes its reset value; the parameters stay, and the count of the random
bytes drawn goes on, so that no byte is drawn twice (notes/assumptions/2.md). -/
def State.resetOp (s : State) : State :=
  { State.resetWith s.config with draw := s.draw, draws := s.draws }

/-! ### The stages of the cycle (R120) -/

/-- The start of a cycle: the per-cycle flag and record are 0, and `r = draw()` is drawn (R46, R47, R120). -/
def State.startCycle (s : State) : State :=
  { s with noAdvance := false, out := CycleOut.none, draw := Config.freeByte s.draws, draws := s.draws + 1 }

/-- The start of a cycle and its fetch, up to the diagnostic the fetch can give (R120, stage 1). -/
def State.beginCycle (s : State) : State := s.startCycle.noteFetch

/-- `if DT > 0: DT <- DT - 1` (R126). -/
def State.tickDelay (s : State) : State := if s.dt = 0 then s else s.setDt (s.dt - 1)

/-- `if ST > 0: sound_tick <- 1; ST <- ST - 1` (R126). -/
def State.tickSound (s : State) : State := if s.st = 0 then s else (s.setSt (s.st - 1)).markSoundTick

/-- `TimerTail()` (R126). -/
def State.timerTail (s : State) : State := s.tickDelay.tickSound

/-- Stage 4: `Advance()` unless the handler set `no_advance` (R120, R125). -/
def State.advanceStage (s : State) : State := if s.noAdvance then s else s.advance

/-- Stage 6: `FB_DIRTY <- 1` where `fb_changed` is 1 (R127), and `no_advance` is not kept (R41). -/
def State.endCycle (s : State) : State :=
  { s with fbDirty := s.fbDirty || s.out.fbChanged, noAdvance := false }

/-- Stages 4 to 6, none of which runs after a stack fault (R120, R130). -/
def State.finishCycle (s : State) : State := if s.halted then s else s.advanceStage.timerTail.endCycle

/-- The cycle of a halted block: nothing changes and the record is (0, 0, 0) (R121). -/
def State.idleCycle (s : State) : State := { s with out := CycleOut.none }

/-- Carries the rest of the cycle over the outcome of the execute stage. -/
def completeCycle : Host.Outcome State Fault Refusal → Host.Outcome State Fault Refusal
  | .next s => .next s.finishCycle
  | .fault r => .fault r
  | .refused r => .refused r

end Sys2Proof.Machine
end

