-- ==== Sys2Proof/Machine/Flags.lean ====
section
/-!
DEFINITION. The flag computations of R34 and the order in which an instruction writes its result and its flag: the
destination first, `VF` last (R180).
-/
namespace Sys2Proof.Machine

/-- The value `VF` holds for a flag: exactly 0 or 1 (R34). -/
def flagByte (c : Bool) : Byte := if c then 1 else 0

/-- Unsigned overflow of an addition (R187). -/
def carryOut (a b : Byte) : Bool := decide (255 < a.toNat + b.toNat)

/-- No borrow in `a - b` (R188, R190). -/
def noBorrow (a b : Byte) : Bool := decide (b.toNat ≤ a.toNat)

/-- The bit a right shift drops (R189). -/
def shiftedOutRight (a : Byte) : Bool := a.getLsbD 0

/-- The bit a left shift drops (R191). -/
def shiftedOutLeft (a : Byte) : Bool := a.getLsbD 7

/-- `V[15] <- (1 if c else 0)`. -/
def State.setFlag (s : State) (c : Bool) : State := s.setReg Reg.vf (flagByte c)

/-- `V[x] <- b`, then the flag, so that `x` = 15 ends holding the flag (R180). -/
def State.setRegFlag (s : State) (x : Reg) (b : Byte) (c : Bool) : State := (s.setReg x b).setFlag c

end Sys2Proof.Machine
end

