-- ==== Sys2Proof/Machine/Operands.lean ====
section
/-!
DEFINITION. The operand forms: register and immediate operands as integers, the one data addressing mode (R220), the
font address (R223), the decimal digits (R224), the register block moves (R225, R226), the keypad (R270, R274) and the
random operand (R195).
-/
namespace Sys2Proof.Machine

/-- Register `k` of an ascending block move (R94, R225). -/
def blockReg (k : Nat) : Reg := Fin.ofNat 16 k

/-- `I + k`, the address of the k-th byte an instruction moves, before its reduction (R220). -/
def State.indexAddr (s : State) (k : Nat) : Nat := s.i.toNat + k

/-- `FONT_BASE + d * FONT_STRIDE` with `FONT_BASE` 0 and `FONT_STRIDE` 5 (R7, R223). -/
def fontAddr (d : Byte) : Word := BitVec.ofNat 16 (d.toNat * 5)

/-- The decimal digits of a byte (R224): hundreds (k = 0), tens (k = 1), units. -/
def bcdDigit (b : Byte) : Nat → Byte
  | 0 => BitVec.ofNat 8 (b.toNat / 100)
  | 1 => BitVec.ofNat 8 (b.toNat / 10 % 10)
  | _ => BitVec.ofNat 8 (b.toNat % 10)

/-- `for k in 0 .. n-1, ascending: MemWrite(I + k, 1, f k)` (R220, R224, R225). -/
def State.storeBlock (s : State) (f : Nat → Byte) : Nat → State
  | 0 => s
  | n + 1 => (s.storeBlock f n).memWrite (s.indexAddr n) (f n)

/-- `for k in 0 .. n-1, ascending: V[k] <- MemRead(I + k, 1)` (R220, R226). -/
def State.loadBlock (s : State) : Nat → State
  | 0 => s
  | n + 1 =>
    let read := (s.loadBlock n).memRead (s.indexAddr n)
    read.2.setReg (blockReg n) read.1

/-- `KEYS[k]` (R37). -/
def State.key (s : State) (k : Fin 16) : Bool := s.keys[k]

/-- `KeyHeld(b)`: a value above 15 names no key (R270). -/
def State.keyHeld (s : State) (b : Byte) : Bool :=
  if h : b.toNat < 16 then s.key ⟨b.toNat, h⟩ else false

/-- `min { k | KEYS[k] = 1 }`, or none where no key is held (R274). -/
def State.lowestKey (s : State) : Option (Fin 16) := (List.finRange 16).find? s.key

/-- `Rnd(RND_MODE, nn, r)` (R195). -/
def rndResult : RndMode → Byte → Byte → Byte
  | .range, nn, r => BitVec.ofNat 8 (r.toNat % (nn.toNat + 1))
  | .mask, nn, r => r &&& nn

end Sys2Proof.Machine
end

