-- ==== Sys2Proof/Machine/Control.lean ====
section
/-!
DEFINITION. Control transfer and skips (R150 to R159). Any target is taken, odd or even (R150).
-/
namespace Sys2Proof.Machine

/-- RET (R152): on an empty stack the stack fault, else the popped address. -/
def execRet (s : State) : Host.Outcome State Fault Refusal :=
  if s.sp = 0 then .next (s.raiseStackFault .underflow)
  else .next (s.pop.jump (s.stackEntry (s.sp - 1)).toNat)

/-- JP nnn (R153). -/
def execJp (nnn : Addr) (s : State) : Host.Outcome State Fault Refusal := .next (s.jump nnn.toNat)

/-- CALL nnn (R154): on a full stack the stack fault; else the address of the next instruction is pushed, with
`diag(PC_WRAP)` where it wraps. -/
def execCall (nnn : Addr) (s : State) : Host.Outcome State Fault Refusal :=
  if s.sp = s.config.stackDepth then .next (s.raiseStackFault .overflow)
  else
    let ret := s.pc.toNat + 2
    .next (((s.reportIf (pcLeavesMemory ret) .pcWrap).push (BitVec.ofNat 12 ret)).jump nnn.toNat)

/-- SE Vx, nn (R155). -/
def execSeImm (x : Reg) (nn : Byte) (s : State) : Host.Outcome State Fault Refusal :=
  .next (s.skipIf (decide (s.reg x = nn)))

/-- SNE Vx, nn (R156). -/
def execSneImm (x : Reg) (nn : Byte) (s : State) : Host.Outcome State Fault Refusal :=
  .next (s.skipIf (decide (s.reg x ≠ nn)))

/-- SE Vx, Vy (R157). -/
def execSeReg (x y : Reg) (s : State) : Host.Outcome State Fault Refusal :=
  .next (s.skipIf (decide (s.reg x = s.reg y)))

/-- SNE Vx, Vy (R158). -/
def execSneReg (x y : Reg) (s : State) : Host.Outcome State Fault Refusal :=
  .next (s.skipIf (decide (s.reg x ≠ s.reg y)))

/-- JP V0, nnn: `V0 + nnn`, always V0 (R159). -/
def execJpV0 (nnn : Addr) (s : State) : Host.Outcome State Fault Refusal :=
  .next (s.jump ((s.reg 0).toNat + nnn.toNat))

end Sys2Proof.Machine
end

