-- ==== Sys2Proof/Machine/Cycle.lean ====
section
/-!
DEFINITION. The words without semantics: the unrecognized ones (R128) and SYS (R129), no-ops with a diagnostic.
-/
namespace Sys2Proof.Machine

/-- The execute stage of an unrecognized word: `diag(UNKNOWN_OPCODE)` and nothing else (R128). -/
def State.executeUnrecognized (s : State) : State := s.report .unknownOpcode

/-- SYS nnn: `diag(SYS_IGNORED)` and nothing else (R129). -/
def execSys (s : State) : Host.Outcome State Fault Refusal := .next (s.report .sysIgnored)

end Sys2Proof.Machine
end

