-- ==== Sys2Proof/Machine/Display.lean ====
section
/-!
DEFINITION. The framebuffer: clear-screen and sprite draw (R250 to R257).
-/
namespace Sys2Proof.Machine

/-- The grid with every pixel off. -/
def clearScreen : Screen := Vector.replicate 32 (Vector.replicate 64 false)

/-- `FB[px][py]`; a pair off the grid names no pixel and reads as off (R36, R255). -/
def Screen.pixel (fb : Screen) (px py : Nat) : Bool :=
  if h : px < 64 ∧ py < 32 then fb[py][px] else false

/-- `FB[px][py] <- not FB[px][py]`; a pair off the grid names no pixel and is dropped (R255). -/
def Screen.toggle (fb : Screen) (px py : Nat) : Screen :=
  if h : px < 64 ∧ py < 32 then fb.set py (fb[py].set px (!fb[py][px])) else fb

/-- One set bit of a sprite on the grid, with the collision so far (R252, R256); off the grid it is dropped and does
not count (R255). -/
def plotPixel (px py : Nat) (acc : Screen × Bool) : Screen × Bool :=
  if px < 64 ∧ py < 32 then (Screen.toggle acc.1 px py, acc.2 || Screen.pixel acc.1 px py) else acc

/-- Is bit `7 - col` of a sprite byte set, the one drawn at column `col` (R253)? -/
def spriteBit (sprite : Byte) (col : Nat) : Bool := sprite.getLsbD (7 - col)

/-- The first `n` columns of one sprite row, left to right (R252, R253). -/
def drawColumns (sprite : Byte) (x0 py : Nat) (acc : Screen × Bool) : Nat → Screen × Bool
  | 0 => acc
  | col + 1 =>
    let done := drawColumns sprite x0 py acc col
    if spriteBit sprite col then plotPixel (x0 + col) py done else done

/-- The first `n` rows of a sprite, top to bottom, with the collision so far; every row is read, even a clipped one
(R252). -/
def State.drawRows (s : State) (x0 y0 : Nat) : Nat → State × Bool
  | 0 => (s, false)
  | row + 1 =>
    let done := s.drawRows x0 y0 row
    let read := done.1.memRead (s.indexAddr row)
    let drawn := drawColumns read.1 x0 (y0 + row) (read.2.fb, done.2) 8
    (read.2.setFb drawn.1, drawn.2)

/-- CLS: every pixel off, `fb_changed` always (R251, R257). -/
def execCls (s : State) : Host.Outcome State Fault Refusal := .next ((s.setFb clearScreen).markFbChanged)

/-- DRW Vx, Vy, n (R252): the coordinates are read before `VF` is written, and are not reduced (R255). -/
def execDrw (x y : Reg) (n : Nibble) (s : State) : Host.Outcome State Fault Refusal :=
  let drawn := s.drawRows (s.reg x).toNat (s.reg y).toNat n.toNat
  .next ((drawn.1.setFlag drawn.2).markFbChanged)

end Sys2Proof.Machine
end

