-- ==== Sys2Proof/Machine/Index.lean ====
section
/-!
DEFINITION. The index register, font lookup, decimal store and register transfer (R220 to R227). No instruction here
changes `I` as a side effect (R220).
-/
namespace Sys2Proof.Machine

/-- LD I, nnn: zero-extended (R221). -/
def execLdI (nnn : Addr) (s : State) : Host.Outcome State Fault Refusal := .next (s.setI (nnn.zeroExtend 16))

/-- ADD I, Vx: modulo 65536, `diag(I_RANGE)` where the new `I` is above 0xFFF (R222). -/
def execAddI (x : Reg) (s : State) : Host.Outcome State Fault Refusal :=
  let sum : Word := BitVec.ofNat 16 (s.i.toNat + (s.reg x).toNat)
  .next ((s.setI sum).reportIf (decide (0xFFF < sum.toNat)) .iRange)

/-- LD F, Vx: the whole byte times the stride (R223). -/
def execLdF (x : Reg) (s : State) : Host.Outcome State Fault Refusal := .next (s.setI (fontAddr (s.reg x)))

/-- LD B, Vx: hundreds, tens, units at I, I + 1, I + 2 (R224). -/
def execLdB (x : Reg) (s : State) : Host.Outcome State Fault Refusal := .next (s.storeBlock (bcdDigit (s.reg x)) 3)

/-- LD [I], Vx: V0 to Vx inclusive (R225). -/
def execStoreRegs (x : Reg) (s : State) : Host.Outcome State Fault Refusal :=
  .next (s.storeBlock (fun k => s.reg (blockReg k)) (x.val + 1))

/-- LD Vx, [I]: V0 to Vx inclusive (R226). -/
def execLoadRegs (x : Reg) (s : State) : Host.Outcome State Fault Refusal := .next (s.loadBlock (x.val + 1))

end Sys2Proof.Machine
end

