-- ==== Sys2Proof/Machine/InputTimers.lean ====
section
/-!
DEFINITION. Key input and timers (R270 to R277). The timer tail of the same cycle runs after these (R126).
-/
namespace Sys2Proof.Machine

/-- SKP Vx (R271). -/
def execSkp (x : Reg) (s : State) : Host.Outcome State Fault Refusal := .next (s.skipIf (s.keyHeld (s.reg x)))

/-- SKNP Vx (R272). -/
def execSknp (x : Reg) (s : State) : Host.Outcome State Fault Refusal := .next (s.skipIf (!s.keyHeld (s.reg x)))

/-- LD Vx, DT: the value before this cycle's timer tail (R273). -/
def execLdVxDt (x : Reg) (s : State) : Host.Outcome State Fault Refusal := .next (s.setReg x s.dt)

/-- LD Vx, K: with no key held `no_advance`, so that the instruction runs again; else the lowest held key (R274). -/
def execLdVxK (x : Reg) (s : State) : Host.Outcome State Fault Refusal :=
  match s.lowestKey with
  | none => .next s.markNoAdvance
  | some k => .next (s.setReg x (BitVec.ofNat 8 k.val))

/-- LD DT, Vx (R275). -/
def execLdDtVx (x : Reg) (s : State) : Host.Outcome State Fault Refusal := .next (s.setDt (s.reg x))

/-- LD ST, Vx (R276). -/
def execLdStVx (x : Reg) (s : State) : Host.Outcome State Fault Refusal := .next (s.setSt (s.reg x))

end Sys2Proof.Machine
end

