-- ==== Sys2Proof/Machine/Step.lean ====
section
/-!
DEFINITION. One step of the machine is one call of `cycle()` (R120), and where its next instruction is fetched from.
-/
namespace Sys2Proof.Machine

/-- `cycle()` (R120): a halted block does nothing (R121); else fetch, decode, execute, and unless a stack fault ended
the cycle, advance and timer tail. A word that decodes to no instruction is a no-op with a diagnostic (R128). -/
def step (s : State) : Host.Outcome State Fault Refusal :=
  if s.halted then .next s.idleCycle
  else
    match decode s.fetchWord with
    | .ok i => completeCycle (exec i s.beginCycle)
    | .error _ => .next s.beginCycle.executeUnrecognized.finishCycle

/-- The state with an instruction word stored at `PC`, where the next step fetches (R64), and the block not halted, so
that the next step does fetch (R121). A program comes to run this way from `load` (R350, notes/assumptions/5.md). -/
def State.withFetchWord (s : State) (nbits w : Nat) : State :=
  let op : Word := BitVec.ofNat 16 (w % 2 ^ nbits)
  let stored := (s.setByte s.pc.toNat (op.extractLsb' 8 8)).setByte (s.pc.toNat + 1) (op.extractLsb' 0 8)
  { stored with halted := false, fault := if s.halted then 0 else s.fault }

end Sys2Proof.Machine
end

