-- ==== Sys2Proof/Machine/HostOps.lean ====
section
/-!
DEFINITION. The eight operations the block offers its host (R45), each one atomic step between cycles, interleaved in
any order the host chooses (R52).
-/
namespace Sys2Proof.Machine

/-- The operations of R45. -/
inductive Operation
  | reset
  | load (bytes : List Byte)
  | hasLoadedProgram
  | cycle
  | keyPress (k : Nat)
  | keyRelease (k : Nat)
  | readFramebuffer
  | readStatus
  deriving DecidableEq, Repr

/-- The one error `load` reports (R352). -/
inductive LoadError
  | tooLarge
  deriving DecidableEq, Repr

/-- What an operation answers its host. -/
inductive Reply
  /-- Nothing to report: `reset`, and `key_press` or `key_release` of one of the 16 keys (R50, R340). -/
  | done
  /-- `key_press` or `key_release` of no key: refused (R50). -/
  | noSuchKey
  /-- `load`'s Ok (R350). -/
  | loaded
  /-- `load`'s typed failure (R352). -/
  | loadFailed (e : LoadError)
  /-- `has_loaded_program()`'s answer (R353). -/
  | hasProgram (b : Bool)
  /-- The record of a cycle (R47). -/
  | cycled (out : CycleOut)
  /-- The copy of the framebuffer, and `FB_DIRTY` before the call (R51). -/
  | framebuffer (fb : Screen) (dirty : Bool)
  /-- `read_status()`: (`HALTED`, `FAULT`) (R45). -/
  | status (halted : Bool) (fault : BitVec 2)
  deriving DecidableEq, Repr

/-- `MEM[a + i] <- b[i]` for the bytes of a list, in order (R350). -/
def State.copyBytes (s : State) (a : Nat) : List Byte → State
  | [] => s
  | b :: rest => (s.setByte a b).copyBytes (a + 1) rest

/-- Would `n` bytes overrun memory, less the trailer (R351)? -/
def loadTooLarge (c : Config) (n : Nat) : Bool := decide (memSize < pcStart + n + c.loadTrailer)

/-- `load(bytes)` (R350): reset in either case, then the copy where it fits (R351, R352). -/
def State.loadOp (s : State) (bytes : List Byte) : Reply × State :=
  if loadTooLarge s.config bytes.length then (.loadFailed .tooLarge, s.resetOp)
  else (.loaded, s.resetOp.copyBytes pcStart bytes)

/-- `has_loaded_program()` (R353): memory as it stands. -/
def State.hasLoadedProgram (s : State) : Bool := s.byte pcStart != 0 || s.byte (pcStart + 1) != 0

/-- `key_press(k)` and `key_release(k)` (R50). -/
def State.setKey (s : State) (k : Nat) (held : Bool) : Reply × State :=
  if h : k < 16 then (.done, { s with keys := s.keys.set k held }) else (.noSuchKey, s)

/-- `read_framebuffer()` (R51). -/
def State.readFramebuffer (s : State) : Reply × State := (.framebuffer s.fb s.fbDirty, { s with fbDirty := false })

/-- The reply of a cycle is its record (R46, R47). -/
def cycleReply : Host.Outcome State Fault Refusal → Host.Outcome (Reply × State) Fault Refusal
  | .next s => .next (.cycled s.out, s)
  | .fault r => .fault r
  | .refused r => .refused r

/-- One operation of the host (R45, R52). -/
def operate (op : Operation) (s : State) : Host.Outcome (Reply × State) Fault Refusal :=
  match op with
  | .reset => .next (.done, s.resetOp)
  | .load bytes => .next (s.loadOp bytes)
  | .hasLoadedProgram => .next (.hasProgram s.hasLoadedProgram, s)
  | .cycle => cycleReply (step s)
  | .keyPress k => .next (s.setKey k true)
  | .keyRelease k => .next (s.setKey k false)
  | .readFramebuffer => .next s.readFramebuffer
  | .readStatus => .next (.status s.halted s.fault, s)

/-- A sequence of operations, up to the first that does not answer. -/
def operateAll : List Operation → State → Host.Outcome State Fault Refusal
  | [], s => .next s
  | op :: rest, s =>
    match operate op s with
    | .next r => operateAll rest r.2
    | .fault r => .fault r
    | .refused r => .refused r

end Sys2Proof.Machine
end

