-- ==== Sys2Proof/Safety.lean ====
section
/-!
DEFINITION. The terms claims are made in: the invariant of the machine, the end of a run (R372), the obligations the
source places on programs (R356), and for each instruction which registers it reads and writes (R23), where it stores
(R66) and when it sets `no_advance` (R124), written from the spec's own tables.
-/
namespace Sys2Proof

open Sys2Proof.Machine

/-- The registers an instruction writes, the flag among them: the right column of R23. -/
def Instr.writesReg (i : Instr) (j : Reg) : Bool :=
  match i with
  | .ldImm x _ | .addImm x _ | .ldReg x _ | .orReg x _ | .andReg x _ | .xorReg x _
  | .rnd x _ | .ldVxDt x | .ldVxK x => decide (j = x)
  | .addReg x _ | .subReg x _ | .subnReg x _ | .shr x _ | .shl x _ =>
    decide (j = x) || decide (j = Reg.vf)
  | .drw _ _ _ => decide (j = Reg.vf)
  | .loadRegs x => decide (j ≤ x)
  | .cls | .ret | .sys _ | .jp _ | .call _ | .seImm _ _ | .sneImm _ _ | .seReg _ _
  | .sneReg _ _ | .ldI _ | .jpV0 _ | .skp _ | .sknp _ | .ldDtVx _ | .ldStVx _
  | .addI _ | .ldF _ | .ldB _ | .storeRegs _ => false

/-- The registers an instruction reads: the middle column of R23. -/
def Instr.readsReg (i : Instr) (j : Reg) : Bool :=
  match i with
  | .seImm x _ | .sneImm x _ | .addImm x _ | .shr x _ | .shl x _ | .skp x | .sknp x
  | .ldDtVx x | .ldStVx x | .addI x | .ldF x | .ldB x => decide (j = x)
  | .ldReg _ y => decide (j = y)
  | .seReg x y | .sneReg x y | .orReg x y | .andReg x y | .xorReg x y | .addReg x y
  | .subReg x y | .subnReg x y | .drw x y _ => decide (j = x) || decide (j = y)
  | .jpV0 _ => decide (j = 0)
  | .storeRegs x => decide (j ≤ x)
  | .cls | .ret | .sys _ | .jp _ | .call _ | .ldImm _ _ | .ldI _ | .rnd _ _
  | .ldVxDt _ | .ldVxK _ | .loadRegs _ => false

/-- The addresses an instruction stores to, reduced (R61, R66): those of `State.storeBlock`, which the meanings call. -/
def Instr.storedAddrs (i : Instr) (s : State) : List Nat :=
  match i with
  | .ldB _ => (List.range 3).map fun k => reduceAddr (s.indexAddr k)
  | .storeRegs x => (List.range (x.val + 1)).map fun k => reduceAddr (s.indexAddr k)
  | .cls | .ret | .sys _ | .jp _ | .call _ | .seImm _ _ | .sneImm _ _ | .seReg _ _
  | .ldImm _ _ | .addImm _ _ | .ldReg _ _ | .orReg _ _ | .andReg _ _ | .xorReg _ _
  | .addReg _ _ | .subReg _ _ | .shr _ _ | .subnReg _ _ | .shl _ _ | .sneReg _ _
  | .ldI _ | .jpV0 _ | .rnd _ _ | .drw _ _ _ | .skp _ | .sknp _ | .ldVxDt _
  | .ldVxK _ | .ldDtVx _ | .ldStVx _ | .addI _ | .ldF _ | .loadRegs _ => []

/-- When an instruction sets `no_advance` (R124): the jumps always, LD Vx,K while no key is held. -/
def Instr.setsNoAdvance (i : Instr) (s : State) : Bool :=
  match i with
  | .jp _ | .call _ | .ret | .jpV0 _ => true
  | .ldVxK _ => decide (∀ k, s.key k = false)
  | .cls | .sys _ | .seImm _ _ | .sneImm _ _ | .seReg _ _ | .ldImm _ _ | .addImm _ _
  | .ldReg _ _ | .orReg _ _ | .andReg _ _ | .xorReg _ _ | .addReg _ _ | .subReg _ _
  | .shr _ _ | .subnReg _ _ | .shl _ _ | .sneReg _ _ | .ldI _ | .rnd _ _ | .drw _ _ _
  | .skp _ | .sknp _ | .ldVxDt _ | .ldDtVx _ | .ldStVx _ | .addI _ | .ldF _
  | .ldB _ | .storeRegs _ | .loadRegs _ => false

/-- When an instruction raises a stack fault (R310): CALL on a full stack, RET on an empty one. -/
def Instr.stackFault (i : Instr) (s : State) : Option StackFault :=
  match i with
  | .call _ => if s.sp = s.config.stackDepth then some .overflow else none
  | .ret => if s.sp = 0 then some .underflow else none
  | .cls | .sys _ | .jp _ | .seImm _ _ | .sneImm _ _ | .seReg _ _ | .ldImm _ _
  | .addImm _ _ | .ldReg _ _ | .orReg _ _ | .andReg _ _ | .xorReg _ _ | .addReg _ _
  | .subReg _ _ | .shr _ _ | .subnReg _ _ | .shl _ _ | .sneReg _ _ | .ldI _ | .jpV0 _
  | .rnd _ _ | .drw _ _ _ | .skp _ | .sknp _ | .ldVxDt _ | .ldVxK _ | .ldDtVx _
  | .ldStVx _ | .addI _ | .ldF _ | .ldB _ | .storeRegs _ | .loadRegs _ => none

/-- Does a skip's condition hold (R155 to R158, R271, R272)? No other instruction skips. -/
def Instr.skips (i : Instr) (s : State) : Bool :=
  match i with
  | .seImm x nn => decide (s.reg x = nn)
  | .sneImm x nn => decide (s.reg x ≠ nn)
  | .seReg x y => decide (s.reg x = s.reg y)
  | .sneReg x y => decide (s.reg x ≠ s.reg y)
  | .skp x => s.keyHeld (s.reg x)
  | .sknp x => !s.keyHeld (s.reg x)
  | .cls | .ret | .sys _ | .jp _ | .call _ | .ldImm _ _ | .addImm _ _ | .ldReg _ _
  | .orReg _ _ | .andReg _ _ | .xorReg _ _ | .addReg _ _ | .subReg _ _ | .shr _ _
  | .subnReg _ _ | .shl _ _ | .ldI _ | .jpV0 _ | .rnd _ _ | .drw _ _ _ | .ldVxDt _
  | .ldVxK _ | .ldDtVx _ | .ldStVx _ | .addI _ | .ldF _ | .ldB _ | .storeRegs _
  | .loadRegs _ => false

/-- Where execution goes on after an instruction that raises no stack fault, before the reduction modulo 4096 (R26):
the target of a jump, the popped address, this very address while LD Vx,K waits, else past the instruction, and past
the next one too where a skip is taken. -/
def Instr.nextPc (i : Instr) (s : State) : Nat :=
  match i with
  | .jp nnn | .call nnn => nnn.toNat
  | .jpV0 nnn => (s.reg 0).toNat + nnn.toNat
  | .ret => (s.stackEntry (s.sp - 1)).toNat
  | .ldVxK _ => if ∀ k, s.key k = false then s.pc.toNat else s.pc.toNat + 2
  | .cls | .sys _ | .seImm _ _ | .sneImm _ _ | .seReg _ _ | .ldImm _ _ | .addImm _ _ | .ldReg _ _ | .orReg _ _
  | .andReg _ _ | .xorReg _ _ | .addReg _ _ | .subReg _ _ | .shr _ _ | .subnReg _ _ | .shl _ _ | .sneReg _ _
  | .ldI _ | .rnd _ _ | .drw _ _ _ | .skp _ | .sknp _ | .ldVxDt _ | .ldDtVx _ | .ldStVx _ | .addI _ | .ldF _
  | .ldB _ | .storeRegs _ | .loadRegs _ => s.pc.toNat + if i.skips s then 4 else 2

/-- How many bytes an instruction moves through `I` (R66). -/
def Instr.bytesMoved : Instr → Nat
  | .drw _ _ n => n.toNat
  | .ldB _ => 3
  | .storeRegs x | .loadRegs x => x.val + 1
  | .cls | .ret | .sys _ | .jp _ | .call _ | .seImm _ _ | .sneImm _ _ | .seReg _ _ | .ldImm _ _ | .addImm _ _
  | .ldReg _ _ | .orReg _ _ | .andReg _ _ | .xorReg _ _ | .addReg _ _ | .subReg _ _ | .shr _ _ | .subnReg _ _
  | .shl _ _ | .sneReg _ _ | .ldI _ | .jpV0 _ | .rnd _ _ | .skp _ | .sknp _ | .ldVxDt _ | .ldVxK _ | .ldDtVx _
  | .ldStVx _ | .addI _ | .ldF _ => 0

namespace Machine

/-- Does a legal `HALTED` and `FAULT` pair stand in the state (R38, R39)? Halted exactly with a fault, and never 3. -/
abbrev State.StatusLegal (s : State) : Prop := (s.halted = true ↔ s.fault ≠ 0) ∧ s.fault ≠ 3

/-- Has the stack its depth, and is `SP` within it (R20, R30)? -/
abbrev State.StackLegal (s : State) : Prop :=
  s.stack.length = s.config.stackDepth ∧ s.sp ≤ s.config.stackDepth

/-- The invariant between cycles: memory in its canonical form, a legal stack, a legal status, `no_advance` not kept
(R41), and the reserved bit of `diag` clear (R301). -/
abbrev State.Inv (s : State) : Prop :=
  Memory.wf s.config.font s.mem = true ∧ s.StackLegal ∧ s.StatusLegal ∧ s.noAdvance = false ∧
    s.out.diag.getLsbD 7 = false

/-- The end of a run (R372): a jump to itself is fetched, or the block is halted. -/
def State.runEnded (s : State) : Bool := s.halted || s.fetchWord == packA 0x1#4 s.pc

/-- The obligation of R356 on `PC`: two-byte aligned. -/
def State.pcAligned (s : State) : Bool := !s.pc.getLsbD 0

/-- The obligation of R356 on the font: its 80 bytes stand as reset left them. -/
abbrev State.FontIntact (s : State) : Prop := ∀ a : Fin 80, s.byte a = s.config.font[a]

/-- The obligation of R356 on `I`: inside memory. -/
def State.indexInMemory (s : State) : Bool := decide (s.i.toNat < memSize)

/-- A run is safe at a state when the program keeps the obligations of R356 there. -/
abbrev State.Safe (s : State) : Prop :=
  s.halted = false ∧ s.pcAligned = true ∧ s.FontIntact ∧ s.indexInMemory = true

/-- Is the sprite bit that falls on pixel (px, py) set, for a sprite of `n` rows at `I` drawn at (x0, y0)? Column
`px - x0` is bit `7 - (px - x0)` of the byte of row `py - y0` (R252, R253). -/
def State.spriteCovers (s : State) (x0 y0 n px py : Nat) : Bool :=
  decide (x0 ≤ px ∧ px < x0 + 8 ∧ y0 ≤ py ∧ py < y0 + n) &&
    (s.byte (s.indexAddr (py - y0))).getLsbD (7 - (px - x0))

/-- `i` performs `Skip()` (R151) where `c` holds, the next program counter and PC_WRAP being all it changes, and where
it does not, nothing at all. -/
def SkipsExactlyIf (i : Instr) (c : Prop) (s : State) : Prop :=
  (¬ c → exec i s = .next s) ∧
  (c → ∃ t, exec i s = .next t ∧ t.pc.toNat = (s.pc.toNat + 2) % 4096 ∧
    t = { s with
          pc := t.pc
          out := { s.out with diag := if 4096 ≤ s.pc.toNat + 2 then s.out.diag ||| 0x04 else s.out.diag } })

/-- Two states that agree in everything but the stack entries at and above `SP`, which no push has written since they
were popped (R31, R43, R152). -/
abbrev State.AgreeBelowSp (s t : State) : Prop :=
  t = { s with stack := t.stack } ∧ t.stack.length = s.stack.length ∧
    ∀ k, k < s.sp → t.stackEntry k = s.stackEntry k

end Machine

end Sys2Proof
end

