-- ==== Sys2Proof/Certificates/Slice0/Obligations.lean ====
section
/-!
DEFINITION. The statements for the provers. Each says in its docstring which rule of the spec it formalises.
-/

open Sys2Proof Sys2Proof.Machine

/-! ### Encoding -/

/-- A few words written out bit by bit from the opcode map decode to the instruction they stand for (R97). -/
def Obligations.WordsOfTheOpcodeMapDecode : Prop :=
  decode 0x00E0#16 = .ok .cls ∧ decode 0x00EE#16 = .ok .ret ∧ decode 0x0123#16 = .ok (.sys 0x123) ∧
  decode 0x23AB#16 = .ok (.call 0x3AB) ∧ decode 0x332A#16 = .ok (.seImm 3 0x2A) ∧
  decode 0x600A#16 = .ok (.ldImm 0 0x0A) ∧ decode 0x812E#16 = .ok (.shl 1 2) ∧
  decode 0x9120#16 = .ok (.sneReg 1 2) ∧ decode 0xBFFF#16 = .ok (.jpV0 0xFFF) ∧
  decode 0xC50F#16 = .ok (.rnd 5 0x0F) ∧ decode 0xD125#16 = .ok (.drw 1 2 5) ∧
  decode 0xE19E#16 = .ok (.skp 1) ∧ decode 0xF30A#16 = .ok (.ldVxK 3) ∧ decode 0xFA33#16 = .ok (.ldB 10) ∧
  decode 0xF265#16 = .ok (.loadRegs 2) ∧ decode 0x8008#16 = .error (.group8 8) ∧
  decode 0x5121#16 = .error (.group5 1)

/-- Decoding inverts encoding: every well-formed instruction, every operand at every value, from the word and from the
two bytes that memory holds for it (R97, R133). -/
def Obligations.DecodeInvertsEncode : Prop :=
  ∀ i : Instr, i.wellFormed = true →
    decode (encode i) = .ok i ∧ decodeTableWord 16 (encode i).toNat = some i ∧
      ∀ rest, decodeBytes (bytesOfWord (encode i) ++ rest) = .ok (i, rest)

/-- Encoding inverts decoding: no bit of a recognized word is dropped, and a decoded instruction is well formed. -/
def Obligations.EncodeInvertsDecode : Prop :=
  ∀ (op : Word) (i : Instr), decode op = .ok i → i.wellFormed = true ∧ encode i = op

/-- `Decode(op)`, pattern by pattern (R133). -/
def Obligations.DecodeFollowsTheOpcodeMap : Prop :=
  ∀ (x y : Reg) (n : Nibble) (nn : Byte) (nnn : Addr),
    decode 0x00E0#16 = .ok .cls ∧ decode 0x00EE#16 = .ok .ret ∧
    (packA 0x0#4 nnn ≠ 0x00E0#16 → packA 0x0#4 nnn ≠ 0x00EE#16 → decode (packA 0x0#4 nnn) = .ok (.sys nnn)) ∧
    decode (packA 0x1#4 nnn) = .ok (.jp nnn) ∧ decode (packA 0x2#4 nnn) = .ok (.call nnn) ∧
    decode (packXK 0x3#4 x nn) = .ok (.seImm x nn) ∧ decode (packXK 0x4#4 x nn) = .ok (.sneImm x nn) ∧
    decode (packXYN 0x5#4 x y 0x0#4) = .ok (.seReg x y) ∧
    (n ≠ 0x0#4 → decode (packXYN 0x5#4 x y n) = .error (.group5 n)) ∧
    decode (packXK 0x6#4 x nn) = .ok (.ldImm x nn) ∧ decode (packXK 0x7#4 x nn) = .ok (.addImm x nn) ∧
    decode (packXYN 0x8#4 x y 0x0#4) = .ok (.ldReg x y) ∧ decode (packXYN 0x8#4 x y 0x1#4) = .ok (.orReg x y) ∧
    decode (packXYN 0x8#4 x y 0x2#4) = .ok (.andReg x y) ∧ decode (packXYN 0x8#4 x y 0x3#4) = .ok (.xorReg x y) ∧
    decode (packXYN 0x8#4 x y 0x4#4) = .ok (.addReg x y) ∧ decode (packXYN 0x8#4 x y 0x5#4) = .ok (.subReg x y) ∧
    decode (packXYN 0x8#4 x y 0x6#4) = .ok (.shr x y) ∧ decode (packXYN 0x8#4 x y 0x7#4) = .ok (.subnReg x y) ∧
    decode (packXYN 0x8#4 x y 0xE#4) = .ok (.shl x y) ∧
    (0x7 < n.toNat → n ≠ 0xE#4 → decode (packXYN 0x8#4 x y n) = .error (.group8 n)) ∧
    decode (packXYN 0x9#4 x y 0x0#4) = .ok (.sneReg x y) ∧
    (n ≠ 0x0#4 → decode (packXYN 0x9#4 x y n) = .error (.group9 n)) ∧
    decode (packA 0xA#4 nnn) = .ok (.ldI nnn) ∧ decode (packA 0xB#4 nnn) = .ok (.jpV0 nnn) ∧
    decode (packXK 0xC#4 x nn) = .ok (.rnd x nn) ∧ decode (packXYN 0xD#4 x y n) = .ok (.drw x y n) ∧
    decode (packXK 0xE#4 x 0x9E#8) = .ok (.skp x) ∧ decode (packXK 0xE#4 x 0xA1#8) = .ok (.sknp x) ∧
    (nn ≠ 0x9E#8 → nn ≠ 0xA1#8 → decode (packXK 0xE#4 x nn) = .error (.groupE nn)) ∧
    decode (packXK 0xF#4 x 0x07#8) = .ok (.ldVxDt x) ∧ decode (packXK 0xF#4 x 0x0A#8) = .ok (.ldVxK x) ∧
    decode (packXK 0xF#4 x 0x15#8) = .ok (.ldDtVx x) ∧ decode (packXK 0xF#4 x 0x18#8) = .ok (.ldStVx x) ∧
    decode (packXK 0xF#4 x 0x1E#8) = .ok (.addI x) ∧ decode (packXK 0xF#4 x 0x29#8) = .ok (.ldF x) ∧
    decode (packXK 0xF#4 x 0x33#8) = .ok (.ldB x) ∧ decode (packXK 0xF#4 x 0x55#8) = .ok (.storeRegs x) ∧
    decode (packXK 0xF#4 x 0x65#8) = .ok (.loadRegs x) ∧
    (nn.toNat ∉ [0x07, 0x0A, 0x15, 0x18, 0x1E, 0x29, 0x33, 0x55, 0x65] →
      decode (packXK 0xF#4 x nn) = .error (.groupF nn))

/-- The words that are no instruction, on the number of the word: exactly the five groups of R103. -/
def Obligations.UnrecognizedWordsAreExactlyTheListed : Prop :=
  ∀ op : Word, (∃ e, decode op = .error e) ↔
    (op.toNat / 4096 = 0x5 ∧ op.toNat % 16 ≠ 0) ∨
    (op.toNat / 4096 = 0x8 ∧ op.toNat % 16 ∈ [0x8, 0x9, 0xA, 0xB, 0xC, 0xD, 0xF]) ∨
    (op.toNat / 4096 = 0x9 ∧ op.toNat % 16 ≠ 0) ∨
    (op.toNat / 4096 = 0xE ∧ op.toNat % 256 ∉ [0x9E, 0xA1]) ∨
    (op.toNat / 4096 = 0xF ∧ op.toNat % 256 ∉ [0x07, 0x0A, 0x15, 0x18, 0x1E, 0x29, 0x33, 0x55, 0x65])

/-! ### Memory and fetch -/

/-- `MemRead` and `MemWrite` (R62, R63) at any integer address: the reduced byte, the diagnostic from 4096 on, every
other byte and every other piece of state left alone, and the canonical form of memory kept. -/
def Obligations.MemoryAccessReducesAndReports : Prop :=
  ∀ (s : State) (a : Nat) (b : Byte), Memory.wf s.config.font s.mem = true →
    (s.memRead a).1 = s.byte (a % 4096) ∧
    (s.memRead a).2 =
      { s with out := { s.out with diag := if 4096 ≤ a then s.out.diag ||| 0x08 else s.out.diag } } ∧
    (s.memWrite a b).byte (a % 4096) = b ∧ (s.memWrite a b).byte a = b ∧
    (∀ c, c < 4096 → c ≠ a % 4096 → (s.memWrite a b).byte c = s.byte c) ∧
    s.memWrite a b =
      { s with mem := (s.memWrite a b).mem,
               out := { s.out with diag := if 4096 ≤ a then s.out.diag ||| 0x08 else s.out.diag } } ∧
    Memory.wf s.config.font (s.memWrite a b).mem = true

/-- Equal memories are equal data: two memories in canonical form that read the same at every address are the same
list. -/
def Obligations.EqualMemoriesAreEqualData : Prop :=
  ∀ (font : Vector Byte 80) (m m' : Memory), Memory.wf font m = true → Memory.wf font m' = true →
    (∀ a, a < 4096 → Memory.read font m a = Memory.read font m' a) → m = m'

/-- `Fetch(pc)` (R64): two bytes, high byte first, the second at `(pc + 1) mod 4096`; PC_WRAP exactly at 0xFFF. -/
def Obligations.FetchIsBigEndianAndWraps : Prop :=
  ∀ s : State,
    s.fetchWord.toNat = (s.byte s.pc.toNat).toNat * 256 + (s.byte ((s.pc.toNat + 1) % 4096)).toNat ∧
    s.noteFetch =
      { s with out := { s.out with diag := if s.pc = 0xFFF then s.out.diag ||| 0x04 else s.out.diag } }

/-! ### The cycle -/

/-- A step runs the decoded instruction (R120, R125 to R127). Where the two bytes at `PC` decode to `i`, and `i` runs
to the state `e` on the state at the start of its cycle, the step ends in `e` if `i` raised a stack fault, and else in
`e` advanced, with both timers ticked, `FB_DIRTY` and the record set and `no_advance` cleared. The start of the cycle
clears the per-cycle flag and record, reports a fetch that wraps, and draws the random byte. -/
def Obligations.StepRunsTheDecodedInstruction : Prop :=
  ∀ (s e : State) (i : Instr), s.halted = false →
    decode (wordOfBytes (s.byte s.pc.toNat) (s.byte ((s.pc.toNat + 1) % 4096))) = .ok i →
    exec i { s with noAdvance := false, draw := Config.freeByte s.draws, draws := s.draws + 1,
                    out := { fbChanged := false, soundTick := false,
                             diag := if s.pc = 0xFFF then 0x04 else 0x00 } } = .next e →
    (e.halted = true → step s = .next e) ∧
    (e.halted = false → step s = .next
      { e with
        pc := if e.noAdvance then e.pc else BitVec.ofNat 12 (e.pc.toNat + 2)
        dt := if e.dt = 0 then 0 else e.dt - 1
        st := if e.st = 0 then 0 else e.st - 1
        fbDirty := e.fbDirty || e.out.fbChanged
        noAdvance := false
        out := { fbChanged := e.out.fbChanged
                 soundTick := e.out.soundTick || decide (e.st ≠ 0)
                 diag := if e.noAdvance = false ∧ 4096 ≤ e.pc.toNat + 2 then e.out.diag ||| 0x04
                         else e.out.diag } })

/-- The words without semantics, unrecognized (R128) and SYS (R129), are no-ops with a diagnostic of their own: `PC`
advances, the timers tick, and nothing else of the spec's state changes. -/
def Obligations.WordsWithoutSemanticsAreNoOps : Prop :=
  ∀ s : State,
    (∀ nnn, exec (.sys nnn) s = .next { s with out := { s.out with diag := s.out.diag ||| 0x02 } }) ∧
    ∀ d : Byte,
      (d = 0x01 ∧ ∃ e, decode s.fetchWord = .error e) ∨ (d = 0x02 ∧ ∃ nnn, decode s.fetchWord = .ok (.sys nnn)) →
      s.halted = false →
      step s = .next
        { s with
          pc := BitVec.ofNat 12 (s.pc.toNat + 2)
          dt := if s.dt = 0 then 0 else s.dt - 1
          st := if s.st = 0 then 0 else s.st - 1
          noAdvance := false
          out := { fbChanged := false, soundTick := decide (s.st ≠ 0)
                   diag := if 4096 ≤ s.pc.toNat + 2 then d ||| 0x04 else d }
          draw := Config.freeByte s.draws
          draws := s.draws + 1 }

/-- A halted block (R121): any number of cycles changes nothing but the record, which is (0, 0, 0). -/
def Obligations.HaltedBlockDoesNothing : Prop :=
  ∀ (n : Nat) (s : State), s.halted = true →
    Sys2Proof.core.run (n + 1) s =
      .next { s with out := { fbChanged := false, soundTick := false, diag := 0 } }

/-- A stack fault (R130, R310), from CALL on a full stack and RET on an empty one: the diagnostic, beside which only
the fetch's PC_WRAP can stand, `HALTED`, `FAULT`, and nothing else. -/
def Obligations.StackFaultIsPrecise : Prop :=
  ∀ s : State, s.halted = false →
    (∀ nnn, decode s.fetchWord = .ok (.call nnn) → s.sp = s.config.stackDepth →
      step s = .next
        { s with
          halted := true, fault := 1, noAdvance := false
          out := { fbChanged := false, soundTick := false, diag := if s.pc = 0xFFF then 0x24 else 0x20 }
          draw := Config.freeByte s.draws
          draws := s.draws + 1 }) ∧
    (decode s.fetchWord = .ok .ret → s.sp = 0 →
      step s = .next
        { s with
          halted := true, fault := 2, noAdvance := false
          out := { fbChanged := false, soundTick := false, diag := if s.pc = 0xFFF then 0x44 else 0x40 }
          draw := Config.freeByte s.draws
          draws := s.draws + 1 })

/-- Only CALL on a full stack and RET on an empty one halt the block (R310, R314); `FAULT` then names which. -/
def Obligations.OnlyStackFaultsHalt : Prop :=
  ∀ s t : State, s.halted = false → step s = .next t →
    ((t.halted = true ↔ ∃ i f, decode s.fetchWord = .ok i ∧ i.stackFault s = some f) ∧
     (∀ i f, decode s.fetchWord = .ok i → i.stackFault s = some f →
       t.fault = match f with | .overflow => 1 | .underflow => 2) ∧
     (t.halted = false → t.fault = s.fault))

/-- Every step, every instruction and every host operation answers a next state, never a fault or a refusal of the
model. A stack fault's halted state (R310, R311) is such a next state by the model's reading (DEDUCED,
notes/assumptions/7.md), and so is what the operations answer in states no run reaches (DESIGN CHOICE,
notes/assumptions/8.md). -/
def Obligations.EveryOperationAnswersANextState : Prop :=
  ∀ s : State, (∃ t, step s = .next t) ∧ (∀ i, ∃ t, exec i s = .next t) ∧
    ∀ ops, ∃ t, operateAll ops s = .next t

/-- Where `PC` goes, for every instruction that raises no stack fault (R26). -/
def Obligations.PcAfterEveryInstruction : Prop :=
  ∀ (s t : State) (i : Instr), s.halted = false → decode s.fetchWord = .ok i → i.stackFault s = none →
    step s = .next t → t.pc.toNat = i.nextPc s % 4096

/-- The diagnostics of a cycle, bit by bit (R301): UNKNOWN_OPCODE, SYS_IGNORED, PC_WRAP, ADDR_WRAP, I_RANGE,
STACK_OVERFLOW, STACK_UNDERFLOW, and the reserved bit. -/
def Obligations.EveryCycleReportsItsDiagnostics : Prop :=
  ∀ s t : State, s.halted = false → step s = .next t →
    (t.out.diag.getLsbD 0 = true ↔ ∃ e, decode s.fetchWord = .error e) ∧
    (t.out.diag.getLsbD 1 = true ↔ ∃ nnn, decode s.fetchWord = .ok (.sys nnn)) ∧
    (t.out.diag.getLsbD 2 = true ↔
      s.pc = 0xFFF ∨
      (∃ e, decode s.fetchWord = .error e ∧ 4096 ≤ s.pc.toNat + 2) ∨
      (∃ i, decode s.fetchWord = .ok i ∧ i.stackFault s = none ∧
        (4096 ≤ i.nextPc s ∨ ∃ nnn, i = .call nnn ∧ 4096 ≤ s.pc.toNat + 2))) ∧
    (t.out.diag.getLsbD 3 = true ↔
      ∃ i, decode s.fetchWord = .ok i ∧ ∃ k, k < i.bytesMoved ∧ 4096 ≤ s.i.toNat + k) ∧
    (t.out.diag.getLsbD 4 = true ↔
      ∃ x, decode s.fetchWord = .ok (.addI x) ∧ 0xFFF < (s.i.toNat + (s.reg x).toNat) % 65536) ∧
    (t.out.diag.getLsbD 5 = true ↔
      ∃ nnn, decode s.fetchWord = .ok (.call nnn) ∧ s.sp = s.config.stackDepth) ∧
    (t.out.diag.getLsbD 6 = true ↔ decode s.fetchWord = .ok .ret ∧ s.sp = 0) ∧
    t.out.diag.getLsbD 7 = false

/-- `TimerTail()` (R126): in every cycle without a stack fault both counters go down by one, never below 0, from the
value the cycle's own instruction left, and `sound_tick` is 1 exactly where the sound timer was above 0. -/
def Obligations.TimersCountEveryCycle : Prop :=
  ∀ s t : State, s.halted = false → step s = .next t → t.halted = false →
    t.dt.toNat = (match decode s.fetchWord with | .ok (.ldDtVx x) => s.reg x | _ => s.dt).toNat - 1 ∧
    t.st.toNat = (match decode s.fetchWord with | .ok (.ldStVx x) => s.reg x | _ => s.st).toNat - 1 ∧
    (t.out.soundTick = true ↔
      0 < (match decode s.fetchWord with | .ok (.ldStVx x) => s.reg x | _ => s.st).toNat)

/-- The delay timer runs down (R361, R277): after `k` cycles, none of which is a LD DT or ends in a stack fault, it
holds its first value less `k`, and 0 from then on. -/
def Obligations.DelayTimerRunsDown : Prop :=
  ∀ (k : Nat) (s u : State), s.halted = false → Sys2Proof.core.run k s = .next u → u.halted = false →
    (∀ j r x, j < k → Sys2Proof.core.run j s = .next r → decode r.fetchWord ≠ .ok (.ldDtVx x)) →
    u.dt.toNat = s.dt.toNat - k

/-- `fb_changed` (R48) is 1 exactly for CLS and DRW, and such a cycle sets `FB_DIRTY`, which no cycle clears (R127). -/
def Obligations.FbChangedExactlyForClsAndDrw : Prop :=
  ∀ s t : State, step s = .next t →
    (t.out.fbChanged = true ↔
      s.halted = false ∧
        (decode s.fetchWord = .ok .cls ∨ ∃ x y n, decode s.fetchWord = .ok (.drw x y n))) ∧
    t.fbDirty = (s.fbDirty || t.out.fbChanged)

/-- A program's end (R153, R372): a jump to its own address repeats for ever, the timers counting down, and changes
nothing else; so a run that has ended has ended for good. -/
def Obligations.SelfJumpEndsTheRun : Prop :=
  (∀ s : State, s.halted = false → decode s.fetchWord = .ok (.jp s.pc) →
    step s = .next
      { s with
        dt := if s.dt = 0 then 0 else s.dt - 1
        st := if s.st = 0 then 0 else s.st - 1
        noAdvance := false
        out := { fbChanged := false, soundTick := decide (s.st ≠ 0)
                 diag := if s.pc = 0xFFF then 0x04 else 0x00 }
        draw := Config.freeByte s.draws
        draws := s.draws + 1 }) ∧
  ∀ (k : Nat) (s t : State), s.runEnded = true → Sys2Proof.core.run k s = .next t →
    t.runEnded = true ∧ t.pc = s.pc ∧ t.v = s.v ∧ t.mem = s.mem ∧ t.fb = s.fb

/-! ### Register arithmetic, logic and random -/

/-- LD Vx, nn (R181) and ADD Vx, nn (R182): the register is written, modulo 256, and nothing else, the flag
included. -/
def Obligations.ImmediateFormsWriteOneRegister : Prop :=
  ∀ (x : Reg) (nn : Byte) (s : State),
    (∃ t, exec (.ldImm x nn) s = .next t ∧ t.reg x = nn ∧ (∀ j, j ≠ x → t.reg j = s.reg j) ∧
      t = { s with v := t.v }) ∧
    (∃ t, exec (.addImm x nn) s = .next t ∧ (t.reg x).toNat = ((s.reg x).toNat + nn.toNat) % 256 ∧
      (∀ j, j ≠ x → t.reg j = s.reg j) ∧ t = { s with v := t.v })

/-- LD Vx, Vy (R183), OR (R184), AND (R185), XOR (R186), bit by bit; no flag. -/
def Obligations.AssignAndLogicWriteOneRegister : Prop :=
  ∀ (x y : Reg) (s : State),
    (∃ t, exec (.ldReg x y) s = .next t ∧ t.reg x = s.reg y ∧ (∀ j, j ≠ x → t.reg j = s.reg j) ∧
      t = { s with v := t.v }) ∧
    (∃ t, exec (.orReg x y) s = .next t ∧
      (∀ b, (t.reg x).getLsbD b = ((s.reg x).getLsbD b || (s.reg y).getLsbD b)) ∧
      (∀ j, j ≠ x → t.reg j = s.reg j) ∧ t = { s with v := t.v }) ∧
    (∃ t, exec (.andReg x y) s = .next t ∧
      (∀ b, (t.reg x).getLsbD b = ((s.reg x).getLsbD b && (s.reg y).getLsbD b)) ∧
      (∀ j, j ≠ x → t.reg j = s.reg j) ∧ t = { s with v := t.v }) ∧
    (∃ t, exec (.xorReg x y) s = .next t ∧
      (∀ b, (t.reg x).getLsbD b = ((s.reg x).getLsbD b ^^ (s.reg y).getLsbD b)) ∧
      (∀ j, j ≠ x → t.reg j = s.reg j) ∧ t = { s with v := t.v })

/-- ADD Vx, Vy (R187): `VF` is the carry, also where `x` is 15; elsewhere the destination is the sum modulo 256. -/
def Obligations.AddSetsSumAndCarry : Prop :=
  ∀ (x y : Reg) (s : State), ∃ t, exec (.addReg x y) s = .next t ∧
    (t.reg 15).toNat = (if 255 < (s.reg x).toNat + (s.reg y).toNat then 1 else 0) ∧
    (x ≠ 15 → (t.reg x).toNat = ((s.reg x).toNat + (s.reg y).toNat) % 256) ∧
    (∀ j, j ≠ x → j ≠ 15 → t.reg j = s.reg j) ∧ t = { s with v := t.v }

/-- SUB (R188) and SUBN (R190), on mathematical integers: `VF` is 1 exactly where there is no borrow, also where `x` is
15; elsewhere the destination is the difference modulo 256. -/
def Obligations.SubtractSetsDifferenceAndNoBorrow : Prop :=
  ∀ (x y : Reg) (s : State),
    (∃ t, exec (.subReg x y) s = .next t ∧
      (t.reg 15).toNat = (if (s.reg y).toNat ≤ (s.reg x).toNat then 1 else 0) ∧
      (x ≠ 15 → ((t.reg x).toNat : Int) = ((s.reg x).toNat - (s.reg y).toNat : Int) % 256) ∧
      (∀ j, j ≠ x → j ≠ 15 → t.reg j = s.reg j) ∧ t = { s with v := t.v }) ∧
    (∃ t, exec (.subnReg x y) s = .next t ∧
      (t.reg 15).toNat = (if (s.reg x).toNat ≤ (s.reg y).toNat then 1 else 0) ∧
      (x ≠ 15 → ((t.reg x).toNat : Int) = ((s.reg y).toNat - (s.reg x).toNat : Int) % 256) ∧
      (∀ j, j ≠ x → j ≠ 15 → t.reg j = s.reg j) ∧ t = { s with v := t.v })

/-- SHR (R189) and SHL (R191): `Vx` in place, whatever `y`; `VF` is the bit shifted out, also where `x` is 15. -/
def Obligations.ShiftsMoveVxAndKeepTheBitShiftedOut : Prop :=
  ∀ (x y : Reg) (s : State),
    (∃ t, exec (.shr x y) s = .next t ∧ (t.reg 15).toNat = (s.reg x).toNat % 2 ∧
      (x ≠ 15 → (t.reg x).toNat = (s.reg x).toNat / 2) ∧
      (∀ j, j ≠ x → j ≠ 15 → t.reg j = s.reg j) ∧ t = { s with v := t.v }) ∧
    (∃ t, exec (.shl x y) s = .next t ∧ (t.reg 15).toNat = (s.reg x).toNat / 128 ∧
      (x ≠ 15 → (t.reg x).toNat = (s.reg x).toNat * 2 % 256) ∧
      (∀ j, j ≠ x → j ≠ 15 → t.reg j = s.reg j) ∧ t = { s with v := t.v })

/-- Same register as source and destination (R193). -/
def Obligations.SameRegisterAsBothOperands : Prop :=
  ∀ (x : Reg) (s : State),
    exec (.ldReg x x) s = .next s ∧ exec (.orReg x x) s = .next s ∧ exec (.andReg x x) s = .next s ∧
    (∃ t, exec (.xorReg x x) s = .next t ∧ t.reg x = 0) ∧
    (∃ t, exec (.subReg x x) s = .next t ∧ t.reg 15 = 1 ∧ (x ≠ 15 → t.reg x = 0)) ∧
    (∃ t, exec (.subnReg x x) s = .next t ∧ t.reg 15 = 1 ∧ (x ≠ 15 → t.reg x = 0)) ∧
    (∃ t, exec (.addReg x x) s = .next t ∧ (t.reg 15).toNat = (s.reg x).toNat / 128 ∧
      (x ≠ 15 → (t.reg x).toNat = 2 * (s.reg x).toNat % 256))

/-- RND Vx, nn (R197), for EVERY random byte `s.draw` of the cycle: `Rnd(RND_MODE, nn, r)` (R195). -/
def Obligations.RndLimitsTheRandomByte : Prop :=
  ∀ (x : Reg) (nn : Byte) (s : State), ∃ t, exec (.rnd x nn) s = .next t ∧
    (s.config.rndMode = .range → (t.reg x).toNat = s.draw.toNat % (nn.toNat + 1)) ∧
    (s.config.rndMode = .mask → ∀ b, (t.reg x).getLsbD b = (s.draw.getLsbD b && nn.getLsbD b)) ∧
    (∀ j, j ≠ x → t.reg j = s.reg j) ∧ t = { s with v := t.v }

/-- Over all random bytes RND gives exactly its result set (R194): 0..nn in the mode RANGE, the bytes whose bits lie in
`nn` in the mode MASK. -/
def Obligations.RndReachesExactlyItsResultSet : Prop :=
  ∀ (x : Reg) (nn b : Byte) (s : State),
    (s.config.rndMode = .range →
      ((∃ r t, exec (.rnd x nn) { s with draw := r } = .next t ∧ t.reg x = b) ↔ b.toNat ≤ nn.toNat)) ∧
    (s.config.rndMode = .mask →
      ((∃ r t, exec (.rnd x nn) { s with draw := r } = .next t ∧ t.reg x = b) ↔ b &&& nn = b))

/-- RND is the only instruction that the random byte reaches (R196): with another byte, any other instruction gives
the same state but for that byte. -/
def Obligations.OnlyRndReadsTheRandomByte : Prop :=
  ∀ (i : Instr) (s t : State) (r : Byte), (∀ x nn, i ≠ .rnd x nn) → exec i s = .next t →
    exec i { s with draw := r } = .next { t with draw := r }

/-! ### Control transfer and skips -/

/-- JP nnn (R153) and JP V0, nnn (R159). -/
def Obligations.JumpsSetPc : Prop :=
  ∀ (nnn : Addr) (s : State),
    exec (.jp nnn) s = .next { s with pc := nnn, noAdvance := true } ∧
    ∃ t, exec (.jpV0 nnn) s = .next t ∧ t.pc.toNat = ((s.reg 0).toNat + nnn.toNat) % 4096 ∧
      t = { s with
            pc := t.pc, noAdvance := true
            out := { s.out with diag := if 4096 ≤ (s.reg 0).toNat + nnn.toNat then s.out.diag ||| 0x04
                                        else s.out.diag } }

/-- CALL nnn (R154): the address of the next instruction goes to `STACK[SP]`, other entries stand, and control goes to
`nnn`; on a full stack the stack fault, with nothing pushed. -/
def Obligations.CallPushesTheNextAddress : Prop :=
  ∀ (nnn : Addr) (s : State), s.StackLegal →
    (s.sp < s.config.stackDepth → ∃ t, exec (.call nnn) s = .next t ∧
      t.sp = s.sp + 1 ∧ t.stack.length = s.stack.length ∧
      (t.stackEntry s.sp).toNat = (s.pc.toNat + 2) % 4096 ∧
      (∀ k, k ≠ s.sp → t.stackEntry k = s.stackEntry k) ∧
      t = { s with
            stack := t.stack, sp := t.sp, pc := nnn, noAdvance := true
            out := { s.out with diag := if 4096 ≤ s.pc.toNat + 2 then s.out.diag ||| 0x04 else s.out.diag } }) ∧
    (s.sp = s.config.stackDepth →
      exec (.call nnn) s = .next
        { s with halted := true, fault := 1, out := { s.out with diag := s.out.diag ||| 0x20 } })

/-- RET (R152): the newest entry is popped into `PC`, and no entry changes; on an empty stack the stack fault. -/
def Obligations.RetPopsIntoPc : Prop :=
  ∀ s : State,
    (0 < s.sp →
      exec .ret s = .next { s with sp := s.sp - 1, pc := s.stackEntry (s.sp - 1), noAdvance := true }) ∧
    (s.sp = 0 →
      exec .ret s = .next
        { s with halted := true, fault := 2, out := { s.out with diag := s.out.diag ||| 0x40 } })

/-- A subroutine returns to the instruction after its call (R152, R154): from any state that has the stack the CALL
left. -/
def Obligations.RetResumesAfterItsCall : Prop :=
  ∀ (nnn : Addr) (s t u : State), s.StackLegal → s.sp < s.config.stackDepth →
    exec (.call nnn) s = .next t → u.stack = t.stack → u.sp = t.sp →
    ∃ w, exec .ret u = .next w ∧ w.pc.toNat = (s.pc.toNat + 2) % 4096 ∧ w.sp = s.sp ∧ w.noAdvance = true

/-- SE and SNE (R155 to R158): where the condition holds `Skip()` (R151), else nothing. -/
def Obligations.CompareSkips : Prop :=
  ∀ (x y : Reg) (nn : Byte) (s : State),
    SkipsExactlyIf (.seImm x nn) (s.reg x = nn) s ∧ SkipsExactlyIf (.sneImm x nn) (s.reg x ≠ nn) s ∧
    SkipsExactlyIf (.seReg x y) (s.reg x = s.reg y) s ∧ SkipsExactlyIf (.sneReg x y) (s.reg x ≠ s.reg y) s

/-- SKP (R271) and SKNP (R272): a value above 15 names no key and is never held (R270). -/
def Obligations.KeySkips : Prop :=
  ∀ (x : Reg) (s : State),
    SkipsExactlyIf (.skp x) (∃ k : Fin 16, (s.reg x).toNat = k.val ∧ s.keys[k] = true) s ∧
    SkipsExactlyIf (.sknp x) (¬ ∃ k : Fin 16, (s.reg x).toNat = k.val ∧ s.keys[k] = true) s

/-! ### Index register and memory -/

/-- LD I, nnn (R221), ADD I, Vx (R222) and LD F, Vx (R223). -/
def Obligations.IndexRegisterForms : Prop :=
  ∀ (x : Reg) (nnn : Addr) (s : State),
    (∃ t, exec (.ldI nnn) s = .next t ∧ t.i.toNat = nnn.toNat ∧ t = { s with i := t.i }) ∧
    (∃ t, exec (.addI x) s = .next t ∧ t.i.toNat = (s.i.toNat + (s.reg x).toNat) % 65536 ∧
      t = { s with
            i := t.i
            out := { s.out with diag := if 0xFFF < t.i.toNat then s.out.diag ||| 0x10 else s.out.diag } }) ∧
    (∃ t, exec (.ldF x) s = .next t ∧ t.i.toNat = (s.reg x).toNat * 5 ∧ t = { s with i := t.i })

/-- LD B, Vx (R224): hundreds, tens and units at I, I + 1, I + 2, each address reduced; every other byte stands. -/
def Obligations.BcdStoresThreeDigits : Prop :=
  ∀ (x : Reg) (s : State), Memory.wf s.config.font s.mem = true → ∃ t, exec (.ldB x) s = .next t ∧
    (t.byte ((s.i.toNat + 0) % 4096)).toNat = (s.reg x).toNat / 100 ∧
    (t.byte ((s.i.toNat + 1) % 4096)).toNat = (s.reg x).toNat / 10 % 10 ∧
    (t.byte ((s.i.toNat + 2) % 4096)).toNat = (s.reg x).toNat % 10 ∧
    (∀ a, a < 4096 → (∀ k, k < 3 → a ≠ (s.i.toNat + k) % 4096) → t.byte a = s.byte a) ∧
    t = { s with
          mem := t.mem
          out := { s.out with diag := if 4096 ≤ s.i.toNat + 2 then s.out.diag ||| 0x08 else s.out.diag } }

/-- LD [I], Vx (R225): V0 to Vx at I to I + x, each address reduced; every other byte stands, and `I` too. -/
def Obligations.RegisterDumpStoresTheBlock : Prop :=
  ∀ (x : Reg) (s : State), Memory.wf s.config.font s.mem = true → ∃ t, exec (.storeRegs x) s = .next t ∧
    (∀ k : Reg, k ≤ x → t.byte ((s.i.toNat + k.val) % 4096) = s.reg k) ∧
    (∀ a, a < 4096 → (∀ k : Reg, k ≤ x → a ≠ (s.i.toNat + k.val) % 4096) → t.byte a = s.byte a) ∧
    t = { s with
          mem := t.mem
          out := { s.out with diag := if 4096 ≤ s.i.toNat + x.val then s.out.diag ||| 0x08 else s.out.diag } }

/-- LD Vx, [I] (R226): V0 to Vx from I to I + x, each address reduced; registers above `x` stand, and `I` too. -/
def Obligations.RegisterLoadReadsTheBlock : Prop :=
  ∀ (x : Reg) (s : State), ∃ t, exec (.loadRegs x) s = .next t ∧
    (∀ k : Reg, k ≤ x → t.reg k = s.byte ((s.i.toNat + k.val) % 4096)) ∧
    (∀ k : Reg, x < k → t.reg k = s.reg k) ∧
    t = { s with
          v := t.v
          out := { s.out with diag := if 4096 ≤ s.i.toNat + x.val then s.out.diag ||| 0x08 else s.out.diag } }

/-- The round trip (R227): LD [I],Vx and then LD Vx,[I] leave every register as it was, whatever changed meanwhile in
the state but memory, the parameters and `I`, and whatever the registers held then. -/
def Obligations.DumpThenLoadRestoresTheRegisters : Prop :=
  ∀ (x : Reg) (s t u : State), Memory.wf s.config.font s.mem = true → exec (.storeRegs x) s = .next t →
    u.mem = t.mem → u.config = t.config → u.i = t.i →
    ∃ w, exec (.loadRegs x) u = .next w ∧ ∀ k : Reg, k ≤ x → w.reg k = s.reg k

/-! ### The framebuffer -/

/-- CLS (R251). -/
def Obligations.ClsTurnsEveryPixelOff : Prop :=
  ∀ s : State, ∃ t, exec .cls s = .next t ∧ (∀ px py, px < 64 → py < 32 → t.fb.pixel px py = false) ∧
    t = { s with fb := t.fb, out := { s.out with fbChanged := true } }

/-- DRW Vx, Vy, n (R252, R253, R255, R256): every pixel of the grid that a set sprite bit falls on is toggled and no
other; the coordinates are those before `VF` is written, and are not reduced; `VF` is 1 exactly where such a pixel was
on, else 0. -/
def Obligations.DrawTogglesExactlyTheCoveredPixels : Prop :=
  ∀ (x y : Reg) (n : Nibble) (s : State), ∃ t, exec (.drw x y n) s = .next t ∧
    (∀ px py, px < 64 → py < 32 →
      t.fb.pixel px py =
        (s.fb.pixel px py ^^ s.spriteCovers (s.reg x).toNat (s.reg y).toNat n.toNat px py)) ∧
    ((t.reg 15).toNat = 1 ↔ ∃ px py, px < 64 ∧ py < 32 ∧
      s.spriteCovers (s.reg x).toNat (s.reg y).toNat n.toNat px py = true ∧ s.fb.pixel px py = true) ∧
    (t.reg 15).toNat ≤ 1 ∧ (∀ j, j ≠ 15 → t.reg j = s.reg j) ∧
    t = { s with
          v := t.v, fb := t.fb
          out := { s.out with
            fbChanged := true
            diag := if 0 < n.toNat ∧ 4096 ≤ s.i.toNat + (n.toNat - 1) then s.out.diag ||| 0x08
                    else s.out.diag } }

/-- A height of 0 (R254) and a start off the grid (R255) draw nothing: `FB` stands, `VF` is 0, `fb_changed` is 1. -/
def Obligations.EmptyAndOffGridDrawsTouchNoPixel : Prop :=
  ∀ (x y : Reg) (n : Nibble) (s : State),
    (n = 0 ∨ 64 ≤ (s.reg x).toNat ∨ 32 ≤ (s.reg y).toNat) →
    ∃ t, exec (.drw x y n) s = .next t ∧ t.fb = s.fb ∧ t.reg 15 = 0 ∧ t.out.fbChanged = true ∧
      (n = 0 → t.out.diag = s.out.diag)

/-! ### Keys and timers -/

/-- LD Vx, DT (R273), LD DT, Vx (R275), LD ST, Vx (R276): the execute stage; the tail is `TimersCountEveryCycle`. -/
def Obligations.TimerTransfers : Prop :=
  ∀ (x : Reg) (s : State),
    (∃ t, exec (.ldVxDt x) s = .next t ∧ t.reg x = s.dt ∧ (∀ j, j ≠ x → t.reg j = s.reg j) ∧
      t = { s with v := t.v }) ∧
    exec (.ldDtVx x) s = .next { s with dt := s.reg x } ∧
    exec (.ldStVx x) s = .next { s with st := s.reg x }

/-- LD Vx, K (R274): with no key held only `no_advance` is set; else the lowest held key's code is written. -/
def Obligations.AwaitKeyTakesTheLowestHeldKey : Prop :=
  ∀ (x : Reg) (s : State),
    ((∀ k : Fin 16, s.keys[k] = false) → exec (.ldVxK x) s = .next { s with noAdvance := true }) ∧
    (∀ k : Fin 16, s.keys[k] = true → (∀ j, j < k → s.keys[j] = false) →
      ∃ t, exec (.ldVxK x) s = .next t ∧ (t.reg x).toNat = k.val ∧ (∀ j, j ≠ x → t.reg j = s.reg j) ∧
        t = { s with v := t.v })

/-- A wait for a key (R274, R321). A cycle with no key held leaves `PC`, every register and memory as they were, and
the timers count on; a cycle with a key held, the lowest being `k`, completes the wait: `Vx` is `k`, `PC` is past the
instruction, and the timers count on. The random byte and its count are the model's (notes/assumptions/2.md). -/
def Obligations.KeyWaitOnlyTicksTheTimers : Prop :=
  ∀ (x : Reg) (s : State), s.halted = false → decode s.fetchWord = .ok (.ldVxK x) →
    ((∀ k : Fin 16, s.keys[k] = false) →
      step s = .next
        { s with
          dt := if s.dt = 0 then 0 else s.dt - 1
          st := if s.st = 0 then 0 else s.st - 1
          noAdvance := false
          out := { fbChanged := false, soundTick := decide (s.st ≠ 0)
                   diag := if s.pc = 0xFFF then 0x04 else 0x00 }
          draw := Config.freeByte s.draws
          draws := s.draws + 1 }) ∧
    (∀ k : Fin 16, s.keys[k] = true → (∀ j, j < k → s.keys[j] = false) →
      ∃ t, step s = .next t ∧ (t.reg x).toNat = k.val ∧ (∀ j, j ≠ x → t.reg j = s.reg j) ∧
        t = { s with
              v := t.v
              pc := BitVec.ofNat 12 (s.pc.toNat + 2)
              dt := if s.dt = 0 then 0 else s.dt - 1
              st := if s.st = 0 then 0 else s.st - 1
              noAdvance := false
              out := { fbChanged := false, soundTick := decide (s.st ≠ 0)
                       diag := if 4096 ≤ s.pc.toNat + 2 then 0x04 else 0x00 }
              draw := Config.freeByte s.draws
              draws := s.draws + 1 })

/-! ### Frames -/

/-- No instruction writes a register that its row of R23 does not name as written. -/
def Obligations.OnlyTheNamedRegistersAreWritten : Prop :=
  ∀ (i : Instr) (s t : State), exec i s = .next t → ∀ j, i.writesReg j = false → t.reg j = s.reg j

/-- No instruction depends on a register that its row of R23 does not name as read: with another value `b` in such a
register `j`, the instruction gives the same state in everything but `j`; and `j` itself holds what the instruction
wrote, the same as before the change, if it writes `j`, and `b` if it does not. LD Vx,K writes `Vx`
only on the cycle it completes (R23); while it waits it sets `no_advance`, as no other instruction that writes a
register ever does (R124). -/
def Obligations.OnlyTheNamedRegistersAreRead : Prop :=
  ∀ (i : Instr) (s t : State) (j : Reg) (b : Byte), i.readsReg j = false → exec i s = .next t →
    ∃ t', exec i (s.setReg j b) = .next t' ∧ t'.setReg j 0 = t.setReg j 0 ∧
      (i.writesReg j = true → i.setsNoAdvance s = false → t'.reg j = t.reg j) ∧
      (i.writesReg j = false ∨ i.setsNoAdvance s = true → t'.reg j = b)

/-- LD B and LD [I] store to the bytes of their block, and no other instruction to any byte (R66). -/
def Obligations.OnlyTheNamedBytesAreStored : Prop :=
  ∀ (i : Instr) (s t : State), exec i s = .next t →
    ∀ a, a < 4096 → a ∉ i.storedAddrs s → t.byte a = s.byte a

/-- `I` is written by LD I, ADD I and LD F only (R28), the stack by CALL only, and `SP` by CALL and RET only (R31). -/
def Obligations.OnlyTheirInstructionsWriteIndexAndStack : Prop :=
  ∀ (i : Instr) (s t : State), exec i s = .next t →
    ((∀ nnn x, i ≠ .ldI nnn ∧ i ≠ .addI x ∧ i ≠ .ldF x) → t.i = s.i) ∧
    ((∀ nnn, i ≠ .call nnn) → t.stack = s.stack) ∧
    ((∀ nnn, i ≠ .call nnn ∧ i ≠ .ret) → t.sp = s.sp)

/-- The framebuffer is written by CLS and DRW only (R250), `DT` by LD DT and `ST` by LD ST only, `HALTED` and `FAULT`
by a stack fault only; no instruction writes the keys (R37), `FB_DIRTY`, the random byte or a parameter. -/
def Obligations.OnlyTheirInstructionsWriteTheRest : Prop :=
  ∀ (i : Instr) (s t : State), exec i s = .next t →
    ((∀ x y n, i ≠ .cls ∧ i ≠ .drw x y n) → t.fb = s.fb ∧ t.out.fbChanged = s.out.fbChanged) ∧
    ((∀ x, i ≠ .ldDtVx x) → t.dt = s.dt) ∧ ((∀ x, i ≠ .ldStVx x) → t.st = s.st) ∧
    (i.stackFault s = none → t.halted = s.halted ∧ t.fault = s.fault) ∧
    (i.setsNoAdvance s = false → t.noAdvance = s.noAdvance) ∧
    t.keys = s.keys ∧ t.fbDirty = s.fbDirty ∧ t.out.soundTick = s.out.soundTick ∧ t.draw = s.draw ∧
    t.draws = s.draws ∧ t.config = s.config

/-- What stands in the stack at and above `SP` is not observable (R31, R152): two states that differ only there step
to two states that differ only there. -/
def Obligations.StackAboveSpIsUnobservable : Prop :=
  ∀ s s' t : State, s.StackLegal → s.AgreeBelowSp s' → step s = .next t →
    ∃ t', step s' = .next t' ∧ t.AgreeBelowSp t'

/-- `FB_DIRTY` and the record of the last cycle are not visible to the program (R42): with others in their place a
step gives the same state, but for `FB_DIRTY`. -/
def Obligations.FbDirtyAndRecordAreInvisible : Prop :=
  ∀ (s t : State) (dirty : Bool) (o : CycleOut), step s = .next t →
    step { s with fbDirty := dirty, out := o } = .next { t with fbDirty := dirty || t.out.fbChanged }

/-! ### Invariants -/

/-- The state after reset, under any parameters, meets the invariant. -/
def Obligations.ResetMeetsTheInvariant : Prop :=
  ∀ c : Config, (State.resetWith c).Inv

/-- Every step keeps the invariant: memory canonical, the stack within its depth, `HALTED` and `FAULT` a legal pair,
`no_advance` not kept, the reserved diagnostic bit clear. -/
def Obligations.StepKeepsTheInvariant : Prop :=
  ∀ s t : State, s.Inv → step s = .next t → t.Inv

/-- Every sequence of host operations, cycles among them, keeps the invariant, and no operation changes a parameter
(R7, R52). -/
def Obligations.HostOperationsKeepTheInvariant : Prop :=
  ∀ (ops : List Operation) (s t : State), s.Inv → operateAll ops s = .next t → t.Inv ∧ t.config = s.config

/-! ### Host operations -/

/-- `reset()` (R340): every piece of state at its reset value, whatever the state before; memory byte by byte. -/
def Obligations.ResetSetsEveryPiece : Prop :=
  ∀ s : State, ∃ t, operate .reset s = .next (.done, t) ∧
    (∀ x, t.reg x = 0) ∧ t.i = 0 ∧ t.sp = 0 ∧ t.stack = List.replicate s.config.stackDepth 0 ∧ t.pc = 0x200 ∧
    t.dt = 0 ∧ t.st = 0 ∧
    (∀ a, a < 4096 → t.byte a = if h : a < 80 then s.config.font[a] else 0) ∧
    (∀ px py, px < 64 → py < 32 → t.fb.pixel px py = false) ∧ (∀ k : Fin 16, t.keys[k] = false) ∧
    t.halted = false ∧ t.fault = 0 ∧ t.fbDirty = true ∧ t.config = s.config

/-- `load(bytes)` (R350 to R352), for a trailer that leaves room for the empty sequence, which R352 says loads
(beyond it log entry notes/assumptions/12.md is the model's choice): reset in either case; where the bytes fit, byte
`i` at 0x200 + `i` and every other byte as reset left it; else the typed failure and the state after reset. -/
def Obligations.LoadResetsAndCopies : Prop :=
  ∀ (s r : State) (bytes : List Byte), s.config.loadTrailer ≤ 3584 → operate .reset s = .next (.done, r) →
    (3584 - s.config.loadTrailer < bytes.length →
      operate (.load bytes) s = .next (.loadFailed .tooLarge, r)) ∧
    (bytes.length ≤ 3584 - s.config.loadTrailer →
      ∃ t, operate (.load bytes) s = .next (.loaded, t) ∧ t = { r with mem := t.mem } ∧
        (∀ k (h : k < bytes.length), t.byte (0x200 + k) = bytes[k]) ∧
        (∀ a, a < 4096 → (a < 0x200 ∨ 0x200 + bytes.length ≤ a) → t.byte a = r.byte a))

/-- `key_press` and `key_release` (R50): the one key, for k in 0..15; any other k is refused and changes nothing. -/
def Obligations.KeyOperationsSetOneKey : Prop :=
  ∀ (k : Nat) (s : State) (held : Bool),
    (k < 16 → ∃ t, operate (if held then .keyPress k else .keyRelease k) s = .next (.done, t) ∧
      t = { s with keys := t.keys } ∧
      ∀ j : Fin 16, t.keys[j] = if j.val = k then held else s.keys[j]) ∧
    (16 ≤ k → operate (if held then .keyPress k else .keyRelease k) s = .next (.noSuchKey, s))

/-- `read_framebuffer()` (R51), `has_loaded_program()` (R353) and `read_status()` (R45): what they answer, and that
only the first changes anything, clearing `FB_DIRTY`; so a second read at once answers that nothing changed. -/
def Obligations.ReadsAnswerAndChangeOnlyFbDirty : Prop :=
  ∀ s : State,
    operate .readFramebuffer s = .next (.framebuffer s.fb s.fbDirty, { s with fbDirty := false }) ∧
    (∀ b t, operate .hasLoadedProgram s = .next (.hasProgram b, t) →
      t = s ∧ (b = true ↔ s.byte 0x200 ≠ 0 ∨ s.byte 0x201 ≠ 0)) ∧
    (∃ b, operate .hasLoadedProgram s = .next (.hasProgram b, s)) ∧
    operate .readStatus s = .next (.status s.halted s.fault, s) ∧
    ∀ t, operateAll [.readFramebuffer] s = .next t →
      operate .readFramebuffer t = .next (.framebuffer s.fb false, t)
end

