-- ==== Sys2Proof/Laws/State.lean ====
section
/-!
SUPPORT. One lemma per field per update of the state, so that no later proof unfolds a record update. Each is true by
rfl: it says which field the update writes, and that it leaves the others.
-/
namespace Sys2Proof.Machine

variable (s : State)

@[simp] theorem State.setReg_v (x : Reg) (b : Byte) : (s.setReg x b).v = s.v.set x b := rfl
@[simp] theorem State.setReg_i (x : Reg) (b : Byte) : (s.setReg x b).i = s.i := rfl
@[simp] theorem State.setReg_pc (x : Reg) (b : Byte) : (s.setReg x b).pc = s.pc := rfl
@[simp] theorem State.setReg_sp (x : Reg) (b : Byte) : (s.setReg x b).sp = s.sp := rfl
@[simp] theorem State.setReg_stack (x : Reg) (b : Byte) : (s.setReg x b).stack = s.stack := rfl
@[simp] theorem State.setReg_dt (x : Reg) (b : Byte) : (s.setReg x b).dt = s.dt := rfl
@[simp] theorem State.setReg_st (x : Reg) (b : Byte) : (s.setReg x b).st = s.st := rfl
@[simp] theorem State.setReg_mem (x : Reg) (b : Byte) : (s.setReg x b).mem = s.mem := rfl
@[simp] theorem State.setReg_fb (x : Reg) (b : Byte) : (s.setReg x b).fb = s.fb := rfl
@[simp] theorem State.setReg_keys (x : Reg) (b : Byte) : (s.setReg x b).keys = s.keys := rfl
@[simp] theorem State.setReg_halted (x : Reg) (b : Byte) : (s.setReg x b).halted = s.halted := rfl
@[simp] theorem State.setReg_fault (x : Reg) (b : Byte) : (s.setReg x b).fault = s.fault := rfl
@[simp] theorem State.setReg_fbDirty (x : Reg) (b : Byte) : (s.setReg x b).fbDirty = s.fbDirty := rfl
@[simp] theorem State.setReg_noAdvance (x : Reg) (b : Byte) : (s.setReg x b).noAdvance = s.noAdvance := rfl
@[simp] theorem State.setReg_out (x : Reg) (b : Byte) : (s.setReg x b).out = s.out := rfl
@[simp] theorem State.setReg_draw (x : Reg) (b : Byte) : (s.setReg x b).draw = s.draw := rfl
@[simp] theorem State.setReg_draws (x : Reg) (b : Byte) : (s.setReg x b).draws = s.draws := rfl
@[simp] theorem State.setReg_config (x : Reg) (b : Byte) : (s.setReg x b).config = s.config := rfl

@[simp] theorem State.setI_v (w : Word) : (s.setI w).v = s.v := rfl
@[simp] theorem State.setI_i (w : Word) : (s.setI w).i = w := rfl
@[simp] theorem State.setI_pc (w : Word) : (s.setI w).pc = s.pc := rfl
@[simp] theorem State.setI_sp (w : Word) : (s.setI w).sp = s.sp := rfl
@[simp] theorem State.setI_stack (w : Word) : (s.setI w).stack = s.stack := rfl
@[simp] theorem State.setI_dt (w : Word) : (s.setI w).dt = s.dt := rfl
@[simp] theorem State.setI_st (w : Word) : (s.setI w).st = s.st := rfl
@[simp] theorem State.setI_mem (w : Word) : (s.setI w).mem = s.mem := rfl
@[simp] theorem State.setI_fb (w : Word) : (s.setI w).fb = s.fb := rfl
@[simp] theorem State.setI_keys (w : Word) : (s.setI w).keys = s.keys := rfl
@[simp] theorem State.setI_halted (w : Word) : (s.setI w).halted = s.halted := rfl
@[simp] theorem State.setI_fault (w : Word) : (s.setI w).fault = s.fault := rfl
@[simp] theorem State.setI_fbDirty (w : Word) : (s.setI w).fbDirty = s.fbDirty := rfl
@[simp] theorem State.setI_noAdvance (w : Word) : (s.setI w).noAdvance = s.noAdvance := rfl
@[simp] theorem State.setI_out (w : Word) : (s.setI w).out = s.out := rfl
@[simp] theorem State.setI_draw (w : Word) : (s.setI w).draw = s.draw := rfl
@[simp] theorem State.setI_draws (w : Word) : (s.setI w).draws = s.draws := rfl
@[simp] theorem State.setI_config (w : Word) : (s.setI w).config = s.config := rfl

@[simp] theorem State.setDt_v (b : Byte) : (s.setDt b).v = s.v := rfl
@[simp] theorem State.setDt_i (b : Byte) : (s.setDt b).i = s.i := rfl
@[simp] theorem State.setDt_pc (b : Byte) : (s.setDt b).pc = s.pc := rfl
@[simp] theorem State.setDt_sp (b : Byte) : (s.setDt b).sp = s.sp := rfl
@[simp] theorem State.setDt_stack (b : Byte) : (s.setDt b).stack = s.stack := rfl
@[simp] theorem State.setDt_dt (b : Byte) : (s.setDt b).dt = b := rfl
@[simp] theorem State.setDt_st (b : Byte) : (s.setDt b).st = s.st := rfl
@[simp] theorem State.setDt_mem (b : Byte) : (s.setDt b).mem = s.mem := rfl
@[simp] theorem State.setDt_fb (b : Byte) : (s.setDt b).fb = s.fb := rfl
@[simp] theorem State.setDt_keys (b : Byte) : (s.setDt b).keys = s.keys := rfl
@[simp] theorem State.setDt_halted (b : Byte) : (s.setDt b).halted = s.halted := rfl
@[simp] theorem State.setDt_fault (b : Byte) : (s.setDt b).fault = s.fault := rfl
@[simp] theorem State.setDt_fbDirty (b : Byte) : (s.setDt b).fbDirty = s.fbDirty := rfl
@[simp] theorem State.setDt_noAdvance (b : Byte) : (s.setDt b).noAdvance = s.noAdvance := rfl
@[simp] theorem State.setDt_out (b : Byte) : (s.setDt b).out = s.out := rfl
@[simp] theorem State.setDt_draw (b : Byte) : (s.setDt b).draw = s.draw := rfl
@[simp] theorem State.setDt_draws (b : Byte) : (s.setDt b).draws = s.draws := rfl
@[simp] theorem State.setDt_config (b : Byte) : (s.setDt b).config = s.config := rfl

@[simp] theorem State.setSt_v (b : Byte) : (s.setSt b).v = s.v := rfl
@[simp] theorem State.setSt_i (b : Byte) : (s.setSt b).i = s.i := rfl
@[simp] theorem State.setSt_pc (b : Byte) : (s.setSt b).pc = s.pc := rfl
@[simp] theorem State.setSt_sp (b : Byte) : (s.setSt b).sp = s.sp := rfl
@[simp] theorem State.setSt_stack (b : Byte) : (s.setSt b).stack = s.stack := rfl
@[simp] theorem State.setSt_dt (b : Byte) : (s.setSt b).dt = s.dt := rfl
@[simp] theorem State.setSt_st (b : Byte) : (s.setSt b).st = b := rfl
@[simp] theorem State.setSt_mem (b : Byte) : (s.setSt b).mem = s.mem := rfl
@[simp] theorem State.setSt_fb (b : Byte) : (s.setSt b).fb = s.fb := rfl
@[simp] theorem State.setSt_keys (b : Byte) : (s.setSt b).keys = s.keys := rfl
@[simp] theorem State.setSt_halted (b : Byte) : (s.setSt b).halted = s.halted := rfl
@[simp] theorem State.setSt_fault (b : Byte) : (s.setSt b).fault = s.fault := rfl
@[simp] theorem State.setSt_fbDirty (b : Byte) : (s.setSt b).fbDirty = s.fbDirty := rfl
@[simp] theorem State.setSt_noAdvance (b : Byte) : (s.setSt b).noAdvance = s.noAdvance := rfl
@[simp] theorem State.setSt_out (b : Byte) : (s.setSt b).out = s.out := rfl
@[simp] theorem State.setSt_draw (b : Byte) : (s.setSt b).draw = s.draw := rfl
@[simp] theorem State.setSt_draws (b : Byte) : (s.setSt b).draws = s.draws := rfl
@[simp] theorem State.setSt_config (b : Byte) : (s.setSt b).config = s.config := rfl

@[simp] theorem State.setFb_v (f : Screen) : (s.setFb f).v = s.v := rfl
@[simp] theorem State.setFb_i (f : Screen) : (s.setFb f).i = s.i := rfl
@[simp] theorem State.setFb_pc (f : Screen) : (s.setFb f).pc = s.pc := rfl
@[simp] theorem State.setFb_sp (f : Screen) : (s.setFb f).sp = s.sp := rfl
@[simp] theorem State.setFb_stack (f : Screen) : (s.setFb f).stack = s.stack := rfl
@[simp] theorem State.setFb_dt (f : Screen) : (s.setFb f).dt = s.dt := rfl
@[simp] theorem State.setFb_st (f : Screen) : (s.setFb f).st = s.st := rfl
@[simp] theorem State.setFb_mem (f : Screen) : (s.setFb f).mem = s.mem := rfl
@[simp] theorem State.setFb_fb (f : Screen) : (s.setFb f).fb = f := rfl
@[simp] theorem State.setFb_keys (f : Screen) : (s.setFb f).keys = s.keys := rfl
@[simp] theorem State.setFb_halted (f : Screen) : (s.setFb f).halted = s.halted := rfl
@[simp] theorem State.setFb_fault (f : Screen) : (s.setFb f).fault = s.fault := rfl
@[simp] theorem State.setFb_fbDirty (f : Screen) : (s.setFb f).fbDirty = s.fbDirty := rfl
@[simp] theorem State.setFb_noAdvance (f : Screen) : (s.setFb f).noAdvance = s.noAdvance := rfl
@[simp] theorem State.setFb_out (f : Screen) : (s.setFb f).out = s.out := rfl
@[simp] theorem State.setFb_draw (f : Screen) : (s.setFb f).draw = s.draw := rfl
@[simp] theorem State.setFb_draws (f : Screen) : (s.setFb f).draws = s.draws := rfl
@[simp] theorem State.setFb_config (f : Screen) : (s.setFb f).config = s.config := rfl

@[simp] theorem State.report_v (d : Diag) : (s.report d).v = s.v := rfl
@[simp] theorem State.report_i (d : Diag) : (s.report d).i = s.i := rfl
@[simp] theorem State.report_pc (d : Diag) : (s.report d).pc = s.pc := rfl
@[simp] theorem State.report_sp (d : Diag) : (s.report d).sp = s.sp := rfl
@[simp] theorem State.report_stack (d : Diag) : (s.report d).stack = s.stack := rfl
@[simp] theorem State.report_dt (d : Diag) : (s.report d).dt = s.dt := rfl
@[simp] theorem State.report_st (d : Diag) : (s.report d).st = s.st := rfl
@[simp] theorem State.report_mem (d : Diag) : (s.report d).mem = s.mem := rfl
@[simp] theorem State.report_fb (d : Diag) : (s.report d).fb = s.fb := rfl
@[simp] theorem State.report_keys (d : Diag) : (s.report d).keys = s.keys := rfl
@[simp] theorem State.report_halted (d : Diag) : (s.report d).halted = s.halted := rfl
@[simp] theorem State.report_fault (d : Diag) : (s.report d).fault = s.fault := rfl
@[simp] theorem State.report_fbDirty (d : Diag) : (s.report d).fbDirty = s.fbDirty := rfl
@[simp] theorem State.report_noAdvance (d : Diag) : (s.report d).noAdvance = s.noAdvance := rfl
@[simp] theorem State.report_out (d : Diag) : (s.report d).out = { s.out with diag := s.out.diag ||| d.mask } := rfl
@[simp] theorem State.report_draw (d : Diag) : (s.report d).draw = s.draw := rfl
@[simp] theorem State.report_draws (d : Diag) : (s.report d).draws = s.draws := rfl
@[simp] theorem State.report_config (d : Diag) : (s.report d).config = s.config := rfl

@[simp] theorem State.markFbChanged_v : (s.markFbChanged).v = s.v := rfl
@[simp] theorem State.markFbChanged_i : (s.markFbChanged).i = s.i := rfl
@[simp] theorem State.markFbChanged_pc : (s.markFbChanged).pc = s.pc := rfl
@[simp] theorem State.markFbChanged_sp : (s.markFbChanged).sp = s.sp := rfl
@[simp] theorem State.markFbChanged_stack : (s.markFbChanged).stack = s.stack := rfl
@[simp] theorem State.markFbChanged_dt : (s.markFbChanged).dt = s.dt := rfl
@[simp] theorem State.markFbChanged_st : (s.markFbChanged).st = s.st := rfl
@[simp] theorem State.markFbChanged_mem : (s.markFbChanged).mem = s.mem := rfl
@[simp] theorem State.markFbChanged_fb : (s.markFbChanged).fb = s.fb := rfl
@[simp] theorem State.markFbChanged_keys : (s.markFbChanged).keys = s.keys := rfl
@[simp] theorem State.markFbChanged_halted : (s.markFbChanged).halted = s.halted := rfl
@[simp] theorem State.markFbChanged_fault : (s.markFbChanged).fault = s.fault := rfl
@[simp] theorem State.markFbChanged_fbDirty : (s.markFbChanged).fbDirty = s.fbDirty := rfl
@[simp] theorem State.markFbChanged_noAdvance : (s.markFbChanged).noAdvance = s.noAdvance := rfl
@[simp] theorem State.markFbChanged_out : (s.markFbChanged).out = { s.out with fbChanged := true } := rfl
@[simp] theorem State.markFbChanged_draw : (s.markFbChanged).draw = s.draw := rfl
@[simp] theorem State.markFbChanged_draws : (s.markFbChanged).draws = s.draws := rfl
@[simp] theorem State.markFbChanged_config : (s.markFbChanged).config = s.config := rfl

@[simp] theorem State.markSoundTick_v : (s.markSoundTick).v = s.v := rfl
@[simp] theorem State.markSoundTick_i : (s.markSoundTick).i = s.i := rfl
@[simp] theorem State.markSoundTick_pc : (s.markSoundTick).pc = s.pc := rfl
@[simp] theorem State.markSoundTick_sp : (s.markSoundTick).sp = s.sp := rfl
@[simp] theorem State.markSoundTick_stack : (s.markSoundTick).stack = s.stack := rfl
@[simp] theorem State.markSoundTick_dt : (s.markSoundTick).dt = s.dt := rfl
@[simp] theorem State.markSoundTick_st : (s.markSoundTick).st = s.st := rfl
@[simp] theorem State.markSoundTick_mem : (s.markSoundTick).mem = s.mem := rfl
@[simp] theorem State.markSoundTick_fb : (s.markSoundTick).fb = s.fb := rfl
@[simp] theorem State.markSoundTick_keys : (s.markSoundTick).keys = s.keys := rfl
@[simp] theorem State.markSoundTick_halted : (s.markSoundTick).halted = s.halted := rfl
@[simp] theorem State.markSoundTick_fault : (s.markSoundTick).fault = s.fault := rfl
@[simp] theorem State.markSoundTick_fbDirty : (s.markSoundTick).fbDirty = s.fbDirty := rfl
@[simp] theorem State.markSoundTick_noAdvance : (s.markSoundTick).noAdvance = s.noAdvance := rfl
@[simp] theorem State.markSoundTick_out : (s.markSoundTick).out = { s.out with soundTick := true } := rfl
@[simp] theorem State.markSoundTick_draw : (s.markSoundTick).draw = s.draw := rfl
@[simp] theorem State.markSoundTick_draws : (s.markSoundTick).draws = s.draws := rfl
@[simp] theorem State.markSoundTick_config : (s.markSoundTick).config = s.config := rfl

@[simp] theorem State.markNoAdvance_v : (s.markNoAdvance).v = s.v := rfl
@[simp] theorem State.markNoAdvance_i : (s.markNoAdvance).i = s.i := rfl
@[simp] theorem State.markNoAdvance_pc : (s.markNoAdvance).pc = s.pc := rfl
@[simp] theorem State.markNoAdvance_sp : (s.markNoAdvance).sp = s.sp := rfl
@[simp] theorem State.markNoAdvance_stack : (s.markNoAdvance).stack = s.stack := rfl
@[simp] theorem State.markNoAdvance_dt : (s.markNoAdvance).dt = s.dt := rfl
@[simp] theorem State.markNoAdvance_st : (s.markNoAdvance).st = s.st := rfl
@[simp] theorem State.markNoAdvance_mem : (s.markNoAdvance).mem = s.mem := rfl
@[simp] theorem State.markNoAdvance_fb : (s.markNoAdvance).fb = s.fb := rfl
@[simp] theorem State.markNoAdvance_keys : (s.markNoAdvance).keys = s.keys := rfl
@[simp] theorem State.markNoAdvance_halted : (s.markNoAdvance).halted = s.halted := rfl
@[simp] theorem State.markNoAdvance_fault : (s.markNoAdvance).fault = s.fault := rfl
@[simp] theorem State.markNoAdvance_fbDirty : (s.markNoAdvance).fbDirty = s.fbDirty := rfl
@[simp] theorem State.markNoAdvance_noAdvance : (s.markNoAdvance).noAdvance = true := rfl
@[simp] theorem State.markNoAdvance_out : (s.markNoAdvance).out = s.out := rfl
@[simp] theorem State.markNoAdvance_draw : (s.markNoAdvance).draw = s.draw := rfl
@[simp] theorem State.markNoAdvance_draws : (s.markNoAdvance).draws = s.draws := rfl
@[simp] theorem State.markNoAdvance_config : (s.markNoAdvance).config = s.config := rfl

@[simp] theorem State.setByte_v (a : Nat) (b : Byte) : (s.setByte a b).v = s.v := rfl
@[simp] theorem State.setByte_i (a : Nat) (b : Byte) : (s.setByte a b).i = s.i := rfl
@[simp] theorem State.setByte_pc (a : Nat) (b : Byte) : (s.setByte a b).pc = s.pc := rfl
@[simp] theorem State.setByte_sp (a : Nat) (b : Byte) : (s.setByte a b).sp = s.sp := rfl
@[simp] theorem State.setByte_stack (a : Nat) (b : Byte) : (s.setByte a b).stack = s.stack := rfl
@[simp] theorem State.setByte_dt (a : Nat) (b : Byte) : (s.setByte a b).dt = s.dt := rfl
@[simp] theorem State.setByte_st (a : Nat) (b : Byte) : (s.setByte a b).st = s.st := rfl
@[simp] theorem State.setByte_mem (a : Nat) (b : Byte) : (s.setByte a b).mem = Memory.write s.config.font s.mem (reduceAddr a) b := rfl
@[simp] theorem State.setByte_fb (a : Nat) (b : Byte) : (s.setByte a b).fb = s.fb := rfl
@[simp] theorem State.setByte_keys (a : Nat) (b : Byte) : (s.setByte a b).keys = s.keys := rfl
@[simp] theorem State.setByte_halted (a : Nat) (b : Byte) : (s.setByte a b).halted = s.halted := rfl
@[simp] theorem State.setByte_fault (a : Nat) (b : Byte) : (s.setByte a b).fault = s.fault := rfl
@[simp] theorem State.setByte_fbDirty (a : Nat) (b : Byte) : (s.setByte a b).fbDirty = s.fbDirty := rfl
@[simp] theorem State.setByte_noAdvance (a : Nat) (b : Byte) : (s.setByte a b).noAdvance = s.noAdvance := rfl
@[simp] theorem State.setByte_out (a : Nat) (b : Byte) : (s.setByte a b).out = s.out := rfl
@[simp] theorem State.setByte_draw (a : Nat) (b : Byte) : (s.setByte a b).draw = s.draw := rfl
@[simp] theorem State.setByte_draws (a : Nat) (b : Byte) : (s.setByte a b).draws = s.draws := rfl
@[simp] theorem State.setByte_config (a : Nat) (b : Byte) : (s.setByte a b).config = s.config := rfl

@[simp] theorem State.push_v (r : Addr) : (s.push r).v = s.v := rfl
@[simp] theorem State.push_i (r : Addr) : (s.push r).i = s.i := rfl
@[simp] theorem State.push_pc (r : Addr) : (s.push r).pc = s.pc := rfl
@[simp] theorem State.push_sp (r : Addr) : (s.push r).sp = s.sp + 1 := rfl
@[simp] theorem State.push_stack (r : Addr) : (s.push r).stack = s.stack.set s.sp r := rfl
@[simp] theorem State.push_dt (r : Addr) : (s.push r).dt = s.dt := rfl
@[simp] theorem State.push_st (r : Addr) : (s.push r).st = s.st := rfl
@[simp] theorem State.push_mem (r : Addr) : (s.push r).mem = s.mem := rfl
@[simp] theorem State.push_fb (r : Addr) : (s.push r).fb = s.fb := rfl
@[simp] theorem State.push_keys (r : Addr) : (s.push r).keys = s.keys := rfl
@[simp] theorem State.push_halted (r : Addr) : (s.push r).halted = s.halted := rfl
@[simp] theorem State.push_fault (r : Addr) : (s.push r).fault = s.fault := rfl
@[simp] theorem State.push_fbDirty (r : Addr) : (s.push r).fbDirty = s.fbDirty := rfl
@[simp] theorem State.push_noAdvance (r : Addr) : (s.push r).noAdvance = s.noAdvance := rfl
@[simp] theorem State.push_out (r : Addr) : (s.push r).out = s.out := rfl
@[simp] theorem State.push_draw (r : Addr) : (s.push r).draw = s.draw := rfl
@[simp] theorem State.push_draws (r : Addr) : (s.push r).draws = s.draws := rfl
@[simp] theorem State.push_config (r : Addr) : (s.push r).config = s.config := rfl

@[simp] theorem State.pop_v : (s.pop).v = s.v := rfl
@[simp] theorem State.pop_i : (s.pop).i = s.i := rfl
@[simp] theorem State.pop_pc : (s.pop).pc = s.pc := rfl
@[simp] theorem State.pop_sp : (s.pop).sp = s.sp - 1 := rfl
@[simp] theorem State.pop_stack : (s.pop).stack = s.stack := rfl
@[simp] theorem State.pop_dt : (s.pop).dt = s.dt := rfl
@[simp] theorem State.pop_st : (s.pop).st = s.st := rfl
@[simp] theorem State.pop_mem : (s.pop).mem = s.mem := rfl
@[simp] theorem State.pop_fb : (s.pop).fb = s.fb := rfl
@[simp] theorem State.pop_keys : (s.pop).keys = s.keys := rfl
@[simp] theorem State.pop_halted : (s.pop).halted = s.halted := rfl
@[simp] theorem State.pop_fault : (s.pop).fault = s.fault := rfl
@[simp] theorem State.pop_fbDirty : (s.pop).fbDirty = s.fbDirty := rfl
@[simp] theorem State.pop_noAdvance : (s.pop).noAdvance = s.noAdvance := rfl
@[simp] theorem State.pop_out : (s.pop).out = s.out := rfl
@[simp] theorem State.pop_draw : (s.pop).draw = s.draw := rfl
@[simp] theorem State.pop_draws : (s.pop).draws = s.draws := rfl
@[simp] theorem State.pop_config : (s.pop).config = s.config := rfl

@[simp] theorem State.raiseStackFault_v (f : StackFault) : (s.raiseStackFault f).v = s.v := rfl
@[simp] theorem State.raiseStackFault_i (f : StackFault) : (s.raiseStackFault f).i = s.i := rfl
@[simp] theorem State.raiseStackFault_pc (f : StackFault) : (s.raiseStackFault f).pc = s.pc := rfl
@[simp] theorem State.raiseStackFault_sp (f : StackFault) : (s.raiseStackFault f).sp = s.sp := rfl
@[simp] theorem State.raiseStackFault_stack (f : StackFault) : (s.raiseStackFault f).stack = s.stack := rfl
@[simp] theorem State.raiseStackFault_dt (f : StackFault) : (s.raiseStackFault f).dt = s.dt := rfl
@[simp] theorem State.raiseStackFault_st (f : StackFault) : (s.raiseStackFault f).st = s.st := rfl
@[simp] theorem State.raiseStackFault_mem (f : StackFault) : (s.raiseStackFault f).mem = s.mem := rfl
@[simp] theorem State.raiseStackFault_fb (f : StackFault) : (s.raiseStackFault f).fb = s.fb := rfl
@[simp] theorem State.raiseStackFault_keys (f : StackFault) : (s.raiseStackFault f).keys = s.keys := rfl
@[simp] theorem State.raiseStackFault_halted (f : StackFault) : (s.raiseStackFault f).halted = true := rfl
@[simp] theorem State.raiseStackFault_fault (f : StackFault) : (s.raiseStackFault f).fault = f.code := rfl
@[simp] theorem State.raiseStackFault_fbDirty (f : StackFault) : (s.raiseStackFault f).fbDirty = s.fbDirty := rfl
@[simp] theorem State.raiseStackFault_noAdvance (f : StackFault) : (s.raiseStackFault f).noAdvance = s.noAdvance := rfl
@[simp] theorem State.raiseStackFault_out (f : StackFault) : (s.raiseStackFault f).out = { s.out with diag := s.out.diag ||| f.diag.mask } := rfl
@[simp] theorem State.raiseStackFault_draw (f : StackFault) : (s.raiseStackFault f).draw = s.draw := rfl
@[simp] theorem State.raiseStackFault_draws (f : StackFault) : (s.raiseStackFault f).draws = s.draws := rfl
@[simp] theorem State.raiseStackFault_config (f : StackFault) : (s.raiseStackFault f).config = s.config := rfl

@[simp] theorem State.idleCycle_v : (s.idleCycle).v = s.v := rfl
@[simp] theorem State.idleCycle_i : (s.idleCycle).i = s.i := rfl
@[simp] theorem State.idleCycle_pc : (s.idleCycle).pc = s.pc := rfl
@[simp] theorem State.idleCycle_sp : (s.idleCycle).sp = s.sp := rfl
@[simp] theorem State.idleCycle_stack : (s.idleCycle).stack = s.stack := rfl
@[simp] theorem State.idleCycle_dt : (s.idleCycle).dt = s.dt := rfl
@[simp] theorem State.idleCycle_st : (s.idleCycle).st = s.st := rfl
@[simp] theorem State.idleCycle_mem : (s.idleCycle).mem = s.mem := rfl
@[simp] theorem State.idleCycle_fb : (s.idleCycle).fb = s.fb := rfl
@[simp] theorem State.idleCycle_keys : (s.idleCycle).keys = s.keys := rfl
@[simp] theorem State.idleCycle_halted : (s.idleCycle).halted = s.halted := rfl
@[simp] theorem State.idleCycle_fault : (s.idleCycle).fault = s.fault := rfl
@[simp] theorem State.idleCycle_fbDirty : (s.idleCycle).fbDirty = s.fbDirty := rfl
@[simp] theorem State.idleCycle_noAdvance : (s.idleCycle).noAdvance = s.noAdvance := rfl
@[simp] theorem State.idleCycle_out : (s.idleCycle).out = CycleOut.none := rfl
@[simp] theorem State.idleCycle_draw : (s.idleCycle).draw = s.draw := rfl
@[simp] theorem State.idleCycle_draws : (s.idleCycle).draws = s.draws := rfl
@[simp] theorem State.idleCycle_config : (s.idleCycle).config = s.config := rfl

@[simp] theorem State.startCycle_v : (s.startCycle).v = s.v := rfl
@[simp] theorem State.startCycle_i : (s.startCycle).i = s.i := rfl
@[simp] theorem State.startCycle_pc : (s.startCycle).pc = s.pc := rfl
@[simp] theorem State.startCycle_sp : (s.startCycle).sp = s.sp := rfl
@[simp] theorem State.startCycle_stack : (s.startCycle).stack = s.stack := rfl
@[simp] theorem State.startCycle_dt : (s.startCycle).dt = s.dt := rfl
@[simp] theorem State.startCycle_st : (s.startCycle).st = s.st := rfl
@[simp] theorem State.startCycle_mem : (s.startCycle).mem = s.mem := rfl
@[simp] theorem State.startCycle_fb : (s.startCycle).fb = s.fb := rfl
@[simp] theorem State.startCycle_keys : (s.startCycle).keys = s.keys := rfl
@[simp] theorem State.startCycle_halted : (s.startCycle).halted = s.halted := rfl
@[simp] theorem State.startCycle_fault : (s.startCycle).fault = s.fault := rfl
@[simp] theorem State.startCycle_fbDirty : (s.startCycle).fbDirty = s.fbDirty := rfl
@[simp] theorem State.startCycle_noAdvance : (s.startCycle).noAdvance = false := rfl
@[simp] theorem State.startCycle_out : (s.startCycle).out = CycleOut.none := rfl
@[simp] theorem State.startCycle_draw : (s.startCycle).draw = Config.freeByte s.draws := rfl
@[simp] theorem State.startCycle_draws : (s.startCycle).draws = s.draws + 1 := rfl
@[simp] theorem State.startCycle_config : (s.startCycle).config = s.config := rfl

@[simp] theorem State.endCycle_v : (s.endCycle).v = s.v := rfl
@[simp] theorem State.endCycle_i : (s.endCycle).i = s.i := rfl
@[simp] theorem State.endCycle_pc : (s.endCycle).pc = s.pc := rfl
@[simp] theorem State.endCycle_sp : (s.endCycle).sp = s.sp := rfl
@[simp] theorem State.endCycle_stack : (s.endCycle).stack = s.stack := rfl
@[simp] theorem State.endCycle_dt : (s.endCycle).dt = s.dt := rfl
@[simp] theorem State.endCycle_st : (s.endCycle).st = s.st := rfl
@[simp] theorem State.endCycle_mem : (s.endCycle).mem = s.mem := rfl
@[simp] theorem State.endCycle_fb : (s.endCycle).fb = s.fb := rfl
@[simp] theorem State.endCycle_keys : (s.endCycle).keys = s.keys := rfl
@[simp] theorem State.endCycle_halted : (s.endCycle).halted = s.halted := rfl
@[simp] theorem State.endCycle_fault : (s.endCycle).fault = s.fault := rfl
@[simp] theorem State.endCycle_fbDirty : (s.endCycle).fbDirty = (s.fbDirty || s.out.fbChanged) := rfl
@[simp] theorem State.endCycle_noAdvance : (s.endCycle).noAdvance = false := rfl
@[simp] theorem State.endCycle_out : (s.endCycle).out = s.out := rfl
@[simp] theorem State.endCycle_draw : (s.endCycle).draw = s.draw := rfl
@[simp] theorem State.endCycle_draws : (s.endCycle).draws = s.draws := rfl
@[simp] theorem State.endCycle_config : (s.endCycle).config = s.config := rfl

end Sys2Proof.Machine
end

