-- ==== Sys2Proof/Laws/Memory.lean ====
section
/-!
SUPPORT. The laws of memory: reading after writing, at the same address and elsewhere, and that every operation keeps
the canonical form, in which equal memories are equal lists.
-/
namespace Sys2Proof.Machine

variable (font : Vector Byte 80)

@[simp] theorem Memory.read_nil (a : Nat) : Memory.read font [] a = Memory.unlisted font a := rfl

theorem Memory.read_listed (c : Host.Cell) (rest : Memory) (a : Nat) :
    Memory.read font (c :: rest) a = if a = c.1 then c.2 else Memory.read font rest a := rfl

theorem Memory.wfFrom_listed (lo a : Nat) (b : Byte) (rest : Memory) :
    Memory.wfFrom font lo ((a, b) :: rest) = true ↔
      lo ≤ a ∧ a < memSize ∧ b ≠ Memory.unlisted font a ∧ Memory.wfFrom font (a + 1) rest = true := by
  simp [Memory.wfFrom, and_assoc]

theorem Memory.wfFrom_mono {lo lo' : Nat} {m : Memory} (hle : lo' ≤ lo) (h : Memory.wfFrom font lo m = true) :
    Memory.wfFrom font lo' m = true := by
  match m with
  | [] => rfl
  | (a, b) :: rest =>
    rw [Memory.wfFrom_listed] at h ⊢
    exact ⟨hle.trans h.1, h.2⟩

/-- Below its first address a canonical memory lists nothing. -/
theorem Memory.read_below {lo : Nat} {m : Memory} (h : Memory.wfFrom font lo m = true) {a : Nat} (ha : a < lo) :
    Memory.read font m a = Memory.unlisted font a := by
  induction m generalizing lo with
  | nil => rfl
  | cons c rest ih =>
    obtain ⟨a', b⟩ := c
    rw [Memory.wfFrom_listed] at h
    rw [Memory.read_listed, if_neg (by simp only; omega)]
    exact ih h.2.2.2 (by omega)

theorem Memory.read_cons_self {a : Nat} {m : Memory} (h : Memory.wfFrom font (a + 1) m = true) (b : Byte) :
    Memory.read font (Memory.cons font a b m) a = b := by
  unfold Memory.cons
  split
  · rw [Memory.read_below font h (Nat.lt_succ_self a)]; exact Eq.symm ‹_›
  · simp [Memory.read_listed]

theorem Memory.read_cons_ne {a c : Nat} (hne : c ≠ a) (b : Byte) (m : Memory) :
    Memory.read font (Memory.cons font a b m) c = Memory.read font m c := by
  unfold Memory.cons
  split
  · rfl
  · simp [Memory.read_listed, hne]

theorem Memory.wfFrom_cons {lo a : Nat} {m : Memory} (hlo : lo ≤ a) (ha : a < memSize)
    (h : Memory.wfFrom font (a + 1) m = true) (b : Byte) :
    Memory.wfFrom font lo (Memory.cons font a b m) = true := by
  unfold Memory.cons
  split
  · exact Memory.wfFrom_mono font (by omega) h
  · exact (Memory.wfFrom_listed font _ _ _ _).2 ⟨hlo, ha, ‹_›, h⟩

theorem Memory.wfFrom_above {lo lo' a : Nat} {b : Byte} {rest : Memory}
    (h : Memory.wfFrom font lo ((a, b) :: rest) = true) (hlt : lo' ≤ a) :
    Memory.wfFrom font lo' ((a, b) :: rest) = true := by
  rw [Memory.wfFrom_listed] at h ⊢
  exact ⟨hlt, h.2⟩

/-- A write leaves every other address alone (in any list, canonical or not). -/
theorem Memory.read_write_ne {a c : Nat} (hne : c ≠ a) (b : Byte) (m : Memory) :
    Memory.read font (Memory.write font m a b) c = Memory.read font m c := by
  induction m with
  | nil => exact Memory.read_cons_ne font hne b []
  | cons p rest ih =>
    obtain ⟨a', b'⟩ := p
    unfold Memory.write
    split
    · exact Memory.read_cons_ne font hne b _
    · split
      · subst_vars
        rw [Memory.read_cons_ne font hne, Memory.read_listed, if_neg hne]
      · rw [Memory.read_listed, Memory.read_listed, ih]

/-- A read after a write to the same address gives the byte written. -/
theorem Memory.read_write_self {lo : Nat} {m : Memory} (h : Memory.wfFrom font lo m = true) (a : Nat) (b : Byte) :
    Memory.read font (Memory.write font m a b) a = b := by
  induction m generalizing lo with
  | nil => exact Memory.read_cons_self font rfl b
  | cons p rest ih =>
    obtain ⟨a', b'⟩ := p
    unfold Memory.write
    split
    · exact Memory.read_cons_self font (Memory.wfFrom_above font h (by omega)) b
    · rw [Memory.wfFrom_listed] at h
      split
      · subst_vars; exact Memory.read_cons_self font h.2.2.2 b
      · rw [Memory.read_listed, if_neg ‹_›]
        exact ih h.2.2.2

/-- A write keeps the canonical form. -/
theorem Memory.wfFrom_write {lo : Nat} {m : Memory} (h : Memory.wfFrom font lo m = true) {a : Nat} (hlo : lo ≤ a)
    (ha : a < memSize) (b : Byte) : Memory.wfFrom font lo (Memory.write font m a b) = true := by
  induction m generalizing lo with
  | nil => exact Memory.wfFrom_cons font hlo ha rfl b
  | cons p rest ih =>
    obtain ⟨a', b'⟩ := p
    unfold Memory.write
    split
    · exact Memory.wfFrom_cons font hlo ha (Memory.wfFrom_above font h (by omega)) b
    · rw [Memory.wfFrom_listed] at h
      split
      · subst_vars; exact Memory.wfFrom_cons font hlo ha h.2.2.2 b
      · exact (Memory.wfFrom_listed font _ _ _ _).2 ⟨h.1, h.2.1, h.2.2.1, ih h.2.2.2 (by omega)⟩

theorem Memory.wf_write {m : Memory} (h : Memory.wf font m = true) {a : Nat} (ha : a < memSize) (b : Byte) :
    Memory.wf font (Memory.write font m a b) = true :=
  Memory.wfFrom_write font h (Nat.zero_le _) ha b

@[simp] theorem Memory.wf_nil : Memory.wf font [] = true := rfl

@[simp] theorem reduceAddr_lt (a : Nat) : reduceAddr a < memSize := Nat.mod_lt _ (by decide)

theorem reduceAddr_of_lt {a : Nat} (h : a < memSize) : reduceAddr a = a := Nat.mod_eq_of_lt h

@[simp] theorem reduceAddr_idem (a : Nat) : reduceAddr (reduceAddr a) = reduceAddr a :=
  reduceAddr_of_lt (reduceAddr_lt a)

/-- `MEM[a]` after a write to the same reduced address. -/
theorem State.byte_setByte_self {s : State} (h : Memory.wf s.config.font s.mem = true) {a c : Nat}
    (hac : reduceAddr c = reduceAddr a) (b : Byte) : (s.setByte a b).byte c = b := by
  simp only [State.byte, State.setByte_mem, State.setByte_config, hac]
  exact Memory.read_write_self _ h _ b

/-- `MEM[c]` after a write to another reduced address. -/
theorem State.byte_setByte_ne (s : State) {a c : Nat} (hac : reduceAddr c ≠ reduceAddr a) (b : Byte) :
    (s.setByte a b).byte c = s.byte c := by
  simp only [State.byte, State.setByte_mem, State.setByte_config]
  exact Memory.read_write_ne _ hac b _

/-- A byte depends on memory and the font alone. -/
theorem State.byte_congr {s t : State} (hm : t.mem = s.mem) (hc : t.config = s.config) (a : Nat) :
    t.byte a = s.byte a := by
  simp only [State.byte, hm, hc]

theorem State.setByte_wf {s : State} (h : Memory.wf s.config.font s.mem = true) (a : Nat) (b : Byte) :
    Memory.wf (s.setByte a b).config.font (s.setByte a b).mem = true :=
  Memory.wf_write _ h (reduceAddr_lt a) b

end Sys2Proof.Machine
end

