-- ==== Sys2Proof/Laws/Ops.lean ====
section
/-!
SUPPORT. One lemma for each shared operation that says all it can do: the state it gives, written field by field.
-/
namespace Sys2Proof.Machine

variable (s : State)

/-! ### Registers and the flag -/

@[simp] theorem State.reg_setReg_self (x : Reg) (b : Byte) : (s.setReg x b).reg x = b := by
  simp [State.reg, State.setReg]

theorem State.reg_setReg_ne {x j : Reg} (h : j ≠ x) (b : Byte) : (s.setReg x b).reg j = s.reg j := by
  have h' : (x : Nat) ≠ j := fun e => h (Fin.ext e.symm)
  simp [State.reg, State.setReg, Vector.getElem_set_ne, h']

theorem State.reg_setReg (x j : Reg) (b : Byte) : (s.setReg x b).reg j = if j = x then b else s.reg j := by
  split
  · subst_vars; exact s.reg_setReg_self _ b
  · exact s.reg_setReg_ne ‹_› b

/-- A register depends on the register file alone. -/
theorem State.reg_congr {s t : State} (h : t.v = s.v) (x : Reg) : t.reg x = s.reg x := by
  simp only [State.reg, h]

theorem flagByte_toNat (c : Bool) : (flagByte c).toNat = if c then 1 else 0 := by cases c <;> rfl

/-- The destination first, `VF` last (R180). -/
theorem State.reg_setRegFlag (x j : Reg) (b : Byte) (c : Bool) :
    (s.setRegFlag x b c).reg j = if j = Reg.vf then flagByte c else if j = x then b else s.reg j := by
  simp only [State.setRegFlag, State.setFlag, State.reg_setReg]

theorem State.setReg_eq (x : Reg) (b : Byte) : s.setReg x b = { s with v := (s.setReg x b).v } := rfl

theorem State.setRegFlag_eq (x : Reg) (b : Byte) (c : Bool) :
    s.setRegFlag x b c = { s with v := (s.setRegFlag x b c).v } := rfl

/-! ### Diagnostics and the program counter -/

/-- The diagnostic mask after a conditional report. -/
def diagAfter (m : Byte) (c : Bool) (d : Diag) : Byte := if c then m ||| d.mask else m

/-- Reporting a code again where it was reported before changes nothing (R302). -/
theorem diagAfter_again {c c' : Bool} (h : c = true → c' = true) (m : Byte) (d : Diag) :
    diagAfter (diagAfter m c d) c' d = diagAfter m c' d := by
  cases c
  · rfl
  · rw [h rfl]; simp only [diagAfter, if_true, BitVec.or_assoc, BitVec.or_self]

theorem State.reportIf_eq (c : Bool) (d : Diag) :
    s.reportIf c d = { s with out := { s.out with diag := diagAfter s.out.diag c d } } := by
  cases c <;> rfl

theorem State.setPc_eq (t : Nat) :
    s.setPc t = { s with
      pc := BitVec.ofNat 12 t, out := { s.out with diag := diagAfter s.out.diag (pcLeavesMemory t) .pcWrap } } := by
  simp only [State.setPc, State.reportIf_eq]

theorem State.advance_eq : s.advance = s.setPc (s.pc.toNat + 2) := rfl

theorem State.skipIf_eq (c : Bool) : s.skipIf c = if c then s.setPc (s.pc.toNat + 2) else s := rfl

theorem State.jump_eq (t : Nat) : s.jump t = { s.setPc t with noAdvance := true } := rfl

theorem pcLeavesMemory_of_lt {t : Nat} (h : t < memSize) : pcLeavesMemory t = false := by
  simp only [pcLeavesMemory, decide_eq_false_iff_not]; omega

/-- A jump to an address of the 12-bit field reports nothing. -/
theorem State.jump_addr (a : Addr) : s.jump a.toNat = { s with pc := a, noAdvance := true } := by
  have h : pcLeavesMemory a.toNat = false := pcLeavesMemory_of_lt a.isLt
  rw [State.jump_eq, State.setPc_eq, h]
  simp [diagAfter]

/-! ### Memory access -/

theorem State.noteAddr_eq (a : Nat) :
    s.noteAddr a =
      { s with out := { s.out with diag := diagAfter s.out.diag (addrLeavesMemory a) .addrWrap } } :=
  s.reportIf_eq _ _

theorem State.memRead_eq (a : Nat) :
    s.memRead a = (s.byte a,
      { s with out := { s.out with diag := diagAfter s.out.diag (addrLeavesMemory a) .addrWrap } }) := by
  rw [State.memRead, State.noteAddr_eq]

theorem State.memWrite_eq (a : Nat) (b : Byte) :
    s.memWrite a b = { s with
      mem := (s.setByte a b).mem
      out := { s.out with diag := diagAfter s.out.diag (addrLeavesMemory a) .addrWrap } } := by
  rw [State.memWrite, State.noteAddr_eq]; rfl

theorem State.noteFetch_eq :
    s.noteFetch = { s with
      out := { s.out with diag := diagAfter s.out.diag (pcLeavesMemory (s.pc.toNat + 1)) .pcWrap } } :=
  s.reportIf_eq _ _

/-- A later address of a block leaves memory where an earlier one does. -/
theorem State.indexAddr_leaves_mono (n : Nat) :
    (decide (0 < n) && addrLeavesMemory (s.indexAddr (n - 1))) = true → addrLeavesMemory (s.indexAddr n) = true := by
  simp only [addrLeavesMemory, Bool.and_eq_true, decide_eq_true_eq]
  rintro ⟨h0, h⟩
  simp only [State.indexAddr] at *
  omega

/-! ### The cycle's stages -/

theorem State.beginCycle_eq :
    s.beginCycle = { s with
      noAdvance := false
      out := { CycleOut.none with diag := diagAfter 0 (pcLeavesMemory (s.pc.toNat + 1)) .pcWrap }
      draw := Config.freeByte s.draws
      draws := s.draws + 1 } := by
  rw [State.beginCycle, State.noteFetch_eq]; rfl

theorem State.tickDelay_eq : s.tickDelay = { s with dt := if s.dt = 0 then 0 else s.dt - 1 } := by
  unfold State.tickDelay
  split <;> rename_i h
  · rw [← h]
  · rfl

theorem State.tickSound_eq :
    s.tickSound = { s with
      st := if s.st = 0 then 0 else s.st - 1
      out := { s.out with soundTick := s.out.soundTick || decide (s.st ≠ 0) } } := by
  unfold State.tickSound
  split <;> rename_i h
  · simp only [h, ne_eq, not_true_eq_false, decide_false, Bool.or_false]; rw [← h]
  · have h' : s.st ≠ 0 := h
    simp only [State.setSt, State.markSoundTick, h', ne_eq, not_false_eq_true, decide_true, Bool.or_true]

theorem State.timerTail_eq :
    s.timerTail = { s with
      dt := if s.dt = 0 then 0 else s.dt - 1
      st := if s.st = 0 then 0 else s.st - 1
      out := { s.out with soundTick := s.out.soundTick || decide (s.st ≠ 0) } } := by
  simp only [State.timerTail, State.tickDelay_eq, State.tickSound_eq]

theorem State.advanceStage_eq :
    s.advanceStage = if s.noAdvance then s else s.setPc (s.pc.toNat + 2) := rfl

/-- Stages 4 to 6 of a cycle without a stack fault. -/
theorem State.finishCycle_running (h : s.halted = false) :
    s.finishCycle = s.advanceStage.timerTail.endCycle := by
  simp [State.finishCycle, h]

/-- A stack fault ends the cycle (R130). -/
theorem State.finishCycle_halted (h : s.halted = true) : s.finishCycle = s := by
  simp [State.finishCycle, h]

end Sys2Proof.Machine
end

