-- ==== Sys2Proof/Laws/Blocks.lean ====
section
/-!
SUPPORT. The block moves and the sprite loops: what they change, byte by byte, register by register and pixel by
pixel.
-/
namespace Sys2Proof.Machine

variable (s : State)

/-! ### Stores -/

/-- A block store changes memory and the diagnostics. -/
theorem State.storeBlock_eq (f : Nat → Byte) (n : Nat) :
    s.storeBlock f n = { s with
      mem := (s.storeBlock f n).mem, out := { s.out with diag := (s.storeBlock f n).out.diag } } := by
  induction n with
  | zero => rfl
  | succ n ih =>
    rw [State.storeBlock, State.memWrite_eq, ih]

/-- Only a stored address changes. -/
theorem State.storeBlock_byte_ne (f : Nat → Byte) (n c : Nat)
    (h : ∀ k, k < n → reduceAddr c ≠ reduceAddr (s.indexAddr k)) : (s.storeBlock f n).byte c = s.byte c := by
  induction n with
  | zero => rfl
  | succ n ih =>
    have hstep : (s.storeBlock f (n + 1)).byte c = ((s.storeBlock f n).setByte (s.indexAddr n) (f n)).byte c :=
      State.byte_congr (by rw [State.storeBlock, State.memWrite_eq])
        (by rw [State.storeBlock, State.memWrite_eq]; rfl) c
    rw [hstep, State.byte_setByte_ne _ (h n (Nat.lt_succ_self n)), ih fun k hk => h k (by omega)]

theorem State.storeBlock_wf (h : Memory.wf s.config.font s.mem = true) (f : Nat → Byte) (n : Nat) :
    Memory.wf s.config.font (s.storeBlock f n).mem = true := by
  induction n with
  | zero => exact h
  | succ n ih =>
    have hc : (s.storeBlock f n).config = s.config := by rw [State.storeBlock_eq]
    rw [State.storeBlock, State.memWrite_eq]
    simp only [State.setByte_mem, hc]
    exact Memory.wf_write _ ih (reduceAddr_lt _) _

/-- Up to 4096 bytes of a block store land at as many different addresses, each with its own value. -/
theorem State.storeBlock_byte (h : Memory.wf s.config.font s.mem = true) (f : Nat → Byte) (n k : Nat) (hk : k < n)
    (hn : n ≤ memSize) : (s.storeBlock f n).byte (s.indexAddr k) = f k := by
  induction n with
  | zero => omega
  | succ n ih =>
    have hc : (s.storeBlock f n).config = s.config := by rw [State.storeBlock_eq]
    have hstep : ∀ c, (s.storeBlock f (n + 1)).byte c = ((s.storeBlock f n).setByte (s.indexAddr n) (f n)).byte c :=
      fun c => State.byte_congr (by rw [State.storeBlock, State.memWrite_eq])
        (by rw [State.storeBlock, State.memWrite_eq]; rfl) c
    rw [hstep]
    by_cases hkn : k = n
    · subst hkn
      exact State.byte_setByte_self (by rw [hc]; exact s.storeBlock_wf h f k) rfl _
    · have hne : reduceAddr (s.indexAddr k) ≠ reduceAddr (s.indexAddr n) := by
        simp only [reduceAddr, State.indexAddr, memSize] at hn ⊢
        omega
      rw [State.byte_setByte_ne _ hne, ih (by omega) (by omega)]

/-- The diagnostics of a block store: ADDR_WRAP where some address leaves memory. -/
theorem State.storeBlock_diag (f : Nat → Byte) (n : Nat) :
    (s.storeBlock f n).out.diag = diagAfter s.out.diag (decide (0 < n) && addrLeavesMemory (s.indexAddr (n - 1))) .addrWrap := by
  induction n with
  | zero => rfl
  | succ n ih =>
    rw [State.storeBlock, State.memWrite_eq]
    simp only [ih, Nat.add_sub_cancel, Nat.zero_lt_succ, decide_true, Bool.true_and]
    exact diagAfter_again (s.indexAddr_leaves_mono n) _ _

/-! ### Loads -/

/-- A block load changes registers and the diagnostics. -/
theorem State.loadBlock_eq (n : Nat) :
    s.loadBlock n = { s with
      v := (s.loadBlock n).v, out := { s.out with diag := (s.loadBlock n).out.diag } } := by
  induction n with
  | zero => rfl
  | succ n ih =>
    rw [State.loadBlock, State.memRead_eq]
    simp only
    rw [ih]
    rfl

theorem State.loadBlock_byte (n c : Nat) : (s.loadBlock n).byte c = s.byte c :=
  State.byte_congr (by rw [State.loadBlock_eq]) (by rw [State.loadBlock_eq]) c

/-- Register `j` holds the byte at `I + j` where `j` is in the block, and what it held elsewhere. -/
theorem State.loadBlock_reg (n : Nat) (hn : n ≤ 16) (j : Reg) :
    (s.loadBlock n).reg j = if j.val < n then s.byte (s.indexAddr j.val) else s.reg j := by
  induction n with
  | zero => simp [State.loadBlock]
  | succ n ih =>
    have hval : (blockReg n).val = n := by simp [blockReg, Fin.ofNat]; omega
    rw [State.loadBlock, State.memRead_eq]
    simp only [State.reg_setReg, State.loadBlock_byte]
    by_cases hj : j = blockReg n
    · subst hj; simp [hval]
    · have hjn : j.val ≠ n := fun e => hj (Fin.ext (e.trans hval.symm))
      rw [if_neg hj]
      have hreg : State.reg { s.loadBlock n with out := { (s.loadBlock n).out with
          diag := diagAfter (s.loadBlock n).out.diag (addrLeavesMemory (s.indexAddr n)) .addrWrap } } j
          = (s.loadBlock n).reg j := rfl
      rw [hreg, ih (by omega)]
      by_cases hlt : j.val < n
      · rw [if_pos hlt, if_pos (by omega)]
      · rw [if_neg hlt, if_neg (by omega)]

/-- The diagnostics of a block load: ADDR_WRAP where some address leaves memory. -/
theorem State.loadBlock_diag (n : Nat) :
    (s.loadBlock n).out.diag = diagAfter s.out.diag (decide (0 < n) && addrLeavesMemory (s.indexAddr (n - 1))) .addrWrap := by
  induction n with
  | zero => rfl
  | succ n ih =>
    rw [State.loadBlock, State.memRead_eq]
    simp only [State.setReg_out, ih, Nat.add_sub_cancel, Nat.zero_lt_succ, decide_true, Bool.true_and]
    exact diagAfter_again (s.indexAddr_leaves_mono n) _ _

/-! ### The screen -/

theorem Screen.pixel_off_grid (fb : Screen) {px py : Nat} (h : ¬ (px < 64 ∧ py < 32)) :
    Screen.pixel fb px py = false := by
  rw [Screen.pixel, dif_neg h]

@[simp] theorem Screen.pixel_clearScreen (px py : Nat) : Screen.pixel clearScreen px py = false := by
  unfold Screen.pixel clearScreen
  split <;> simp

theorem Screen.pixel_toggle (fb : Screen) (px py qx qy : Nat) :
    Screen.pixel (Screen.toggle fb px py) qx qy =
      (Screen.pixel fb qx qy ^^ decide (qx = px ∧ qy = py ∧ px < 64 ∧ py < 32)) := by
  unfold Screen.toggle
  by_cases hp : px < 64 ∧ py < 32
  · rw [dif_pos hp]
    unfold Screen.pixel
    by_cases hq : qx < 64 ∧ qy < 32
    · rw [dif_pos hq, dif_pos hq]
      by_cases hy : qy = py
      · subst hy
        by_cases hx : qx = px
        · subst hx; simp [hp]
        · have hx' : px ≠ qx := fun e => hx e.symm
          simp [hx, Vector.getElem_set_ne, hx']
      · rw [Vector.getElem_set_ne _ _ (fun e => hy e.symm)]
        simp [hy]
    · rw [dif_neg hq, dif_neg hq]
      have : ¬ (qx = px ∧ qy = py ∧ px < 64 ∧ py < 32) := fun h => hq ⟨h.1 ▸ h.2.2.1, h.2.1 ▸ h.2.2.2⟩
      simp [this]
  · rw [dif_neg hp]
    have : ¬ (qx = px ∧ qy = py ∧ px < 64 ∧ py < 32) := fun h => hp h.2.2
    simp [this]

/-- Two screens with the same pixels are the same screen. -/
theorem Screen.ext_pixel {a b : Screen} (h : ∀ px py, px < 64 → py < 32 → Screen.pixel a px py = Screen.pixel b px py) :
    a = b := by
  apply Vector.ext
  intro py hy
  apply Vector.ext
  intro px hx
  have := h px py hx hy
  simpa [Screen.pixel, hx, hy] using this

/-- A sprite row toggles the pixels under its set bits, inside the grid. -/
theorem drawColumns_pixel (sprite : Byte) (x0 py : Nat) (acc : Screen × Bool) (n qx qy : Nat) :
    Screen.pixel (drawColumns sprite x0 py acc n).1 qx qy =
      (Screen.pixel acc.1 qx qy ^^
        decide (x0 ≤ qx ∧ qx < x0 + n ∧ qy = py ∧ qx < 64 ∧ qy < 32 ∧ spriteBit sprite (qx - x0) = true)) := by
  induction n with
  | zero =>
    have : ¬ (x0 ≤ qx ∧ qx < x0 + 0 ∧ qy = py ∧ qx < 64 ∧ qy < 32 ∧ spriteBit sprite (qx - x0) = true) := by omega
    simp only [drawColumns, this, decide_false, Bool.xor_false]
  | succ n ih =>
    rw [drawColumns]
    by_cases hb : spriteBit sprite n = true
    · rw [if_pos hb]
      have hplot : (plotPixel (x0 + n) py (drawColumns sprite x0 py acc n)).1 =
          Screen.toggle (drawColumns sprite x0 py acc n).1 (x0 + n) py := by
        unfold plotPixel Screen.toggle
        split <;> simp_all
      rw [hplot, Screen.pixel_toggle, ih, Bool.xor_assoc]
      congr 1
      by_cases hq : qx = x0 + n
      · subst hq
        have h1 : x0 + n - x0 = n := by omega
        simp only [h1, hb]
        by_cases hr : qy = py ∧ x0 + n < 64 ∧ py < 32
        · simp [hr]
        · by_cases hy : qy = py
          · subst hy
            have : ¬ (x0 + n < 64 ∧ qy < 32) := fun h => hr ⟨rfl, h⟩
            simp [this]
          · simp [hy]
      · simp only [hq, false_and, decide_false, Bool.xor_false]
        congr 1
        apply propext
        constructor <;> rintro ⟨h1, h2, h3⟩ <;> exact ⟨h1, by omega, h3⟩
    · rw [if_neg hb, ih]
      congr 1
      congr 1
      apply propext
      constructor
      · rintro ⟨h1, h2, h3⟩; exact ⟨h1, by omega, h3⟩
      · rintro ⟨h1, h2, h3, h4, h5, h6⟩
        refine ⟨h1, ?_, h3, h4, h5, h6⟩
        by_contra hlt
        have : qx - x0 = n := by omega
        exact hb (this ▸ h6)

/-- A sprite row collides where one of its set bits falls on a pixel that is on. -/
theorem drawColumns_collision (sprite : Byte) (x0 py : Nat) (acc : Screen × Bool) (n : Nat) :
    (drawColumns sprite x0 py acc n).2 = true ↔
      acc.2 = true ∨ ∃ c, c < n ∧ spriteBit sprite c = true ∧ Screen.pixel acc.1 (x0 + c) py = true := by
  induction n with
  | zero => simp [drawColumns]
  | succ n ih =>
    rw [drawColumns]
    have hsame : Screen.pixel (drawColumns sprite x0 py acc n).1 (x0 + n) py = Screen.pixel acc.1 (x0 + n) py := by
      rw [drawColumns_pixel]
      simp
    have hplot : (plotPixel (x0 + n) py (drawColumns sprite x0 py acc n)).2 = true ↔
        (drawColumns sprite x0 py acc n).2 = true ∨ Screen.pixel acc.1 (x0 + n) py = true := by
      unfold plotPixel
      split
      · rw [← hsame]; simp
      · rw [Screen.pixel_off_grid _ ‹_›]; simp
    by_cases hb : spriteBit sprite n = true
    · rw [if_pos hb, hplot, ih]
      constructor
      · rintro ((h | ⟨c, hc, h1, h2⟩) | h)
        · exact .inl h
        · exact .inr ⟨c, by omega, h1, h2⟩
        · exact .inr ⟨n, by omega, hb, h⟩
      · rintro (h | ⟨c, hc, h1, h2⟩)
        · exact .inl (.inl h)
        · by_cases hcn : c = n
          · subst hcn; exact .inr h2
          · exact .inl (.inr ⟨c, by omega, h1, h2⟩)
    · rw [if_neg hb, ih]
      constructor
      · rintro (h | ⟨c, hc, h1, h2⟩)
        · exact .inl h
        · exact .inr ⟨c, by omega, h1, h2⟩
      · rintro (h | ⟨c, hc, h1, h2⟩)
        · exact .inl h
        · have : c ≠ n := fun e => hb (e ▸ h1)
          exact .inr ⟨c, by omega, h1, h2⟩

/-- Drawing changes the framebuffer and the diagnostics. -/
theorem State.drawRows_eq (x0 y0 n : Nat) :
    (s.drawRows x0 y0 n).1 = { s with
      fb := (s.drawRows x0 y0 n).1.fb, out := { s.out with diag := (s.drawRows x0 y0 n).1.out.diag } } := by
  induction n with
  | zero => rfl
  | succ n ih =>
    rw [State.drawRows]
    simp only [State.memRead_eq]
    rw [ih]
    rfl

theorem State.drawRows_byte (x0 y0 n c : Nat) : (s.drawRows x0 y0 n).1.byte c = s.byte c :=
  State.byte_congr (by rw [State.drawRows_eq]) (by rw [State.drawRows_eq]) c

/-- The diagnostics of a draw: ADDR_WRAP where some row's address leaves memory. -/
theorem State.drawRows_diag (x0 y0 n : Nat) :
    (s.drawRows x0 y0 n).1.out.diag =
      diagAfter s.out.diag (decide (0 < n) && addrLeavesMemory (s.indexAddr (n - 1))) .addrWrap := by
  induction n with
  | zero => rfl
  | succ n ih =>
    rw [State.drawRows]
    simp only [State.memRead_eq, State.setFb_out, ih, Nat.add_sub_cancel, Nat.zero_lt_succ, decide_true, Bool.true_and]
    exact diagAfter_again (s.indexAddr_leaves_mono n) _ _

/-- The byte of a sprite row, as `State.spriteCovers` reads it. -/
theorem State.spriteCovers_iff (x0 y0 n px py : Nat) :
    s.spriteCovers x0 y0 n px py = true ↔
      (x0 ≤ px ∧ px < x0 + 8 ∧ y0 ≤ py ∧ py < y0 + n) ∧
        spriteBit (s.byte (s.indexAddr (py - y0))) (px - x0) = true := by
  simp only [State.spriteCovers, spriteBit, Bool.and_eq_true, decide_eq_true_eq]

/-- A draw toggles the pixels of the grid that the sprite covers (R252, R255). -/
theorem State.drawRows_pixel (x0 y0 n qx qy : Nat) :
    Screen.pixel (s.drawRows x0 y0 n).1.fb qx qy =
      (Screen.pixel s.fb qx qy ^^ (decide (qx < 64 ∧ qy < 32) && s.spriteCovers x0 y0 n qx qy)) := by
  induction n with
  | zero =>
    have : s.spriteCovers x0 y0 0 qx qy = false := by
      rw [Bool.eq_false_iff, ne_eq, State.spriteCovers_iff]; omega
    simp [State.drawRows, this]
  | succ n ih =>
    have hfb : (s.drawRows x0 y0 (n + 1)).1.fb =
        (drawColumns (s.byte (s.indexAddr n)) x0 (y0 + n) ((s.drawRows x0 y0 n).1.fb, (s.drawRows x0 y0 n).2) 8).1 := by
      rw [State.drawRows]
      simp only [State.memRead_eq, State.setFb_fb, State.drawRows_byte]
    rw [hfb, drawColumns_pixel, ih, Bool.xor_assoc]
    congr 1
    by_cases hrow : qy = y0 + n
    · subst hrow
      have hno : s.spriteCovers x0 y0 n qx (y0 + n) = false := by
        rw [Bool.eq_false_iff, ne_eq, State.spriteCovers_iff]; omega
      rw [hno, Bool.and_false, Bool.false_xor, Bool.eq_iff_iff]
      simp only [Bool.and_eq_true, decide_eq_true_eq, State.spriteCovers_iff, Nat.add_sub_cancel_left]
      constructor
      · rintro ⟨h1, h2, -, h4, h5, h6⟩; exact ⟨⟨h4, h5⟩, ⟨h1, h2, by omega, by omega⟩, h6⟩
      · rintro ⟨⟨h4, h5⟩, ⟨h1, h2, -⟩, h6⟩; exact ⟨h1, h2, trivial, h4, h5, h6⟩
    · simp only [hrow, false_and, and_false, decide_false, Bool.xor_false]
      rw [Bool.eq_iff_iff]
      simp only [Bool.and_eq_true, decide_eq_true_eq, State.spriteCovers_iff]
      constructor
      · rintro ⟨h1, ⟨h3, h4, h5, h6⟩, h7⟩; exact ⟨h1, ⟨h3, h4, h5, by omega⟩, h7⟩
      · rintro ⟨h1, ⟨h3, h4, h5, h6⟩, h7⟩; exact ⟨h1, ⟨h3, h4, h5, by omega⟩, h7⟩

/-- A draw collides where a pixel of the grid that the sprite covers was on before it (R256). -/
theorem State.drawRows_collision (x0 y0 n : Nat) :
    (s.drawRows x0 y0 n).2 = true ↔
      ∃ px py, s.spriteCovers x0 y0 n px py = true ∧ Screen.pixel s.fb px py = true := by
  induction n with
  | zero =>
    simp only [State.drawRows, Bool.false_eq_true, false_iff, not_exists, not_and]
    intro px py h
    rw [State.spriteCovers_iff] at h
    omega
  | succ n ih =>
    have hc : (s.drawRows x0 y0 (n + 1)).2 =
        (drawColumns (s.byte (s.indexAddr n)) x0 (y0 + n) ((s.drawRows x0 y0 n).1.fb, (s.drawRows x0 y0 n).2) 8).2 := by
      rw [State.drawRows]
      simp only [State.memRead_eq, State.drawRows_byte]
    have hpix : ∀ px, Screen.pixel (s.drawRows x0 y0 n).1.fb px (y0 + n) = Screen.pixel s.fb px (y0 + n) := by
      intro px
      have hno : s.spriteCovers x0 y0 n px (y0 + n) = false := by
        rw [Bool.eq_false_iff, ne_eq, State.spriteCovers_iff]; omega
      rw [State.drawRows_pixel, hno, Bool.and_false, Bool.xor_false]
    rw [hc, drawColumns_collision, ih]
    simp only [hpix]
    constructor
    · rintro (⟨px, py, h1, h2⟩ | ⟨c, hc8, h1, h2⟩)
      · refine ⟨px, py, ?_, h2⟩
        rw [State.spriteCovers_iff] at h1 ⊢
        exact ⟨⟨h1.1.1, h1.1.2.1, h1.1.2.2.1, by omega⟩, h1.2⟩
      · refine ⟨x0 + c, y0 + n, ?_, h2⟩
        rw [State.spriteCovers_iff, Nat.add_sub_cancel_left, Nat.add_sub_cancel_left]
        exact ⟨⟨by omega, by omega, by omega, by omega⟩, h1⟩
    · rintro ⟨px, py, h1, h2⟩
      rw [State.spriteCovers_iff] at h1
      by_cases hrow : py = y0 + n
      · subst hrow
        rw [Nat.add_sub_cancel_left] at h1
        refine .inr ⟨px - x0, by omega, h1.2, ?_⟩
        rw [Nat.add_sub_cancel' h1.1.1]
        exact h2
      · exact .inl ⟨px, py, (s.spriteCovers_iff _ _ _ _ _).2 ⟨⟨h1.1.1, h1.1.2.1, h1.1.2.2.1, by omega⟩, h1.2⟩, h2⟩

end Sys2Proof.Machine
end

