-- ==== Sys2Proof/Laws/Decode.lean ====
section
/-!
SUPPORT. The fields of a packed word, and a word from its fields: no bit of a word is dropped or read twice.
-/
namespace Sys2Proof

theorem packA_toNat (c : Nibble) (nnn : Addr) : (packA c nnn).toNat = c.toNat * 4096 + nnn.toNat := by
  simp only [packA, BitVec.toNat_append, Nat.shiftLeft_eq]
  rw [Nat.mul_comm, ← Nat.two_pow_add_eq_or_of_lt nnn.isLt]

theorem packXK_toNat (c : Nibble) (x : Reg) (nn : Byte) :
    (packXK c x nn).toNat = c.toNat * 4096 + x.val * 256 + nn.toNat := by
  have hx : (BitVec.ofFin x : Nibble).toNat = x.val := rfl
  simp only [packXK, BitVec.toNat_append, Nat.shiftLeft_eq, hx]
  rw [Nat.mul_comm, ← Nat.two_pow_add_eq_or_of_lt nn.isLt, Nat.mul_comm c.toNat,
    ← Nat.two_pow_add_eq_or_of_lt x.isLt]
  omega

theorem packXYN_toNat (c : Nibble) (x y : Reg) (n : Nibble) :
    (packXYN c x y n).toNat = c.toNat * 4096 + x.val * 256 + y.val * 16 + n.toNat := by
  have hx : (BitVec.ofFin x : Nibble).toNat = x.val := rfl
  have hy : (BitVec.ofFin y : Nibble).toNat = y.val := rfl
  simp only [packXYN, BitVec.toNat_append, Nat.shiftLeft_eq, hx, hy]
  rw [Nat.mul_comm, ← Nat.two_pow_add_eq_or_of_lt n.isLt, Nat.mul_comm _ (2 ^ 4),
    ← Nat.two_pow_add_eq_or_of_lt y.isLt, Nat.mul_comm c.toNat, ← Nat.two_pow_add_eq_or_of_lt x.isLt]
  omega

theorem opMajor_toNat (op : Word) : (opMajor op).toNat = op.toNat / 4096 := by
  have := op.isLt
  simp only [opMajor, BitVec.extractLsb'_toNat, Nat.shiftRight_eq_div_pow]
  omega

theorem fieldX_val (op : Word) : (fieldX op).val = op.toNat / 256 % 16 := by
  simp only [fieldX, BitVec.extractLsb'_toNat, Nat.shiftRight_eq_div_pow, BitVec.val_toFin]

theorem fieldY_val (op : Word) : (fieldY op).val = op.toNat / 16 % 16 := by
  simp only [fieldY, BitVec.extractLsb'_toNat, Nat.shiftRight_eq_div_pow, BitVec.val_toFin]

theorem fieldN_toNat (op : Word) : (fieldN op).toNat = op.toNat % 16 := by
  simp only [fieldN, BitVec.extractLsb'_toNat, Nat.shiftRight_eq_div_pow]
  omega

theorem fieldNN_toNat (op : Word) : (fieldNN op).toNat = op.toNat % 256 := by
  simp only [fieldNN, BitVec.extractLsb'_toNat, Nat.shiftRight_eq_div_pow]
  omega

theorem fieldNNN_toNat (op : Word) : (fieldNNN op).toNat = op.toNat % 4096 := by
  simp only [fieldNNN, BitVec.extractLsb'_toNat, Nat.shiftRight_eq_div_pow]
  omega

/-! ### The fields of a packed word -/

@[simp] theorem opMajor_packA (c : Nibble) (nnn : Addr) : opMajor (packA c nnn) = c := by
  apply BitVec.eq_of_toNat_eq
  have := nnn.isLt
  rw [opMajor_toNat, packA_toNat]; omega

@[simp] theorem fieldNNN_packA (c : Nibble) (nnn : Addr) : fieldNNN (packA c nnn) = nnn := by
  apply BitVec.eq_of_toNat_eq
  have := nnn.isLt
  rw [fieldNNN_toNat, packA_toNat]; omega

@[simp] theorem opMajor_packXK (c : Nibble) (x : Reg) (nn : Byte) : opMajor (packXK c x nn) = c := by
  apply BitVec.eq_of_toNat_eq
  have := nn.isLt
  rw [opMajor_toNat, packXK_toNat]; omega

@[simp] theorem fieldX_packXK (c : Nibble) (x : Reg) (nn : Byte) : fieldX (packXK c x nn) = x := by
  apply Fin.ext
  have := nn.isLt
  rw [fieldX_val, packXK_toNat]; omega

@[simp] theorem fieldNN_packXK (c : Nibble) (x : Reg) (nn : Byte) : fieldNN (packXK c x nn) = nn := by
  apply BitVec.eq_of_toNat_eq
  have := nn.isLt
  rw [fieldNN_toNat, packXK_toNat]; omega

@[simp] theorem opMajor_packXYN (c : Nibble) (x y : Reg) (n : Nibble) : opMajor (packXYN c x y n) = c := by
  apply BitVec.eq_of_toNat_eq
  have := n.isLt
  rw [opMajor_toNat, packXYN_toNat]; omega

@[simp] theorem fieldX_packXYN (c : Nibble) (x y : Reg) (n : Nibble) : fieldX (packXYN c x y n) = x := by
  apply Fin.ext
  have := n.isLt
  rw [fieldX_val, packXYN_toNat]; omega

@[simp] theorem fieldY_packXYN (c : Nibble) (x y : Reg) (n : Nibble) : fieldY (packXYN c x y n) = y := by
  apply Fin.ext
  have := n.isLt
  rw [fieldY_val, packXYN_toNat]; omega

@[simp] theorem fieldN_packXYN (c : Nibble) (x y : Reg) (n : Nibble) : fieldN (packXYN c x y n) = n := by
  apply BitVec.eq_of_toNat_eq
  have := n.isLt
  rw [fieldN_toNat, packXYN_toNat]; omega

/-! ### A word from its fields -/

theorem packA_fields (op : Word) : packA (opMajor op) (fieldNNN op) = op := by
  apply BitVec.eq_of_toNat_eq
  rw [packA_toNat, opMajor_toNat, fieldNNN_toNat]; omega

theorem packXK_fields (op : Word) : packXK (opMajor op) (fieldX op) (fieldNN op) = op := by
  apply BitVec.eq_of_toNat_eq
  rw [packXK_toNat, opMajor_toNat, fieldX_val, fieldNN_toNat]; omega

theorem packXYN_fields (op : Word) : packXYN (opMajor op) (fieldX op) (fieldY op) (fieldN op) = op := by
  apply BitVec.eq_of_toNat_eq
  rw [packXYN_toNat, opMajor_toNat, fieldX_val, fieldY_val, fieldN_toNat]; omega

/-- A word's two bytes, high byte first, make the word again (R65). -/
theorem wordOfBytes_bytes (op : Word) : wordOfBytes (op.extractLsb' 8 8) (op.extractLsb' 0 8) = op := by
  apply BitVec.eq_of_toNat_eq
  have hlo : (op.extractLsb' 0 8).toNat < 2 ^ 8 := (op.extractLsb' 0 8).isLt
  have := op.isLt
  simp only [wordOfBytes, BitVec.toNat_append, Nat.shiftLeft_eq]
  rw [Nat.mul_comm, ← Nat.two_pow_add_eq_or_of_lt hlo]
  simp only [BitVec.extractLsb'_toNat, Nat.shiftRight_eq_div_pow]
  omega

end Sys2Proof
end

