-- ==== Sys2Proof/Laws/HostOps.lean ====
section
/-!
SUPPORT. What the copy of a load does, as a whole, and when a load is too large.
-/
namespace Sys2Proof.Machine

variable (s : State)

/-- The bound of R351, on numbers. -/
theorem loadTooLarge_iff (c : Config) (n : Nat) :
    loadTooLarge c n = true ↔ 4096 < 512 + n + c.loadTrailer :=
  decide_eq_true_iff

/-- The copy changes memory alone. -/
theorem State.copyBytes_eq (a : Nat) (l : List Byte) :
    s.copyBytes a l = { s with mem := (s.copyBytes a l).mem } := by
  induction l generalizing s a with
  | nil => rfl
  | cons b rest ih =>
    simp only [State.copyBytes]
    rw [ih]
    rfl

/-- A byte outside the copied block stands. -/
theorem State.copyBytes_byte_ne (a c : Nat) (l : List Byte) (hc : c < memSize) (hfit : a + l.length ≤ memSize)
    (hout : c < a ∨ a + l.length ≤ c) : (s.copyBytes a l).byte c = s.byte c := by
  induction l generalizing s a with
  | nil => rfl
  | cons b rest ih =>
    simp only [List.length_cons] at hfit hout
    have hne : reduceAddr c ≠ reduceAddr a := by
      rw [reduceAddr_of_lt hc, reduceAddr_of_lt (by omega)]
      omega
    simp only [State.copyBytes]
    rw [ih _ _ (by omega) (by omega), State.byte_setByte_ne _ hne]

/-- Byte `k` of the copied block. -/
theorem State.copyBytes_byte (h : Memory.wf s.config.font s.mem = true) (a : Nat) (l : List Byte)
    (hfit : a + l.length ≤ memSize) (k : Nat) (hk : k < l.length) : (s.copyBytes a l).byte (a + k) = l[k] := by
  induction l generalizing s a k with
  | nil => simp at hk
  | cons b rest ih =>
    simp only [List.length_cons] at hfit hk
    simp only [State.copyBytes]
    cases k with
    | zero =>
      rw [State.copyBytes_byte_ne _ _ _ _ (by omega) (by omega) (by omega)]
      exact State.byte_setByte_self h rfl _
    | succ k =>
      rw [show a + (k + 1) = a + 1 + k by omega, ih _ (State.setByte_wf h _ _) _ (by omega) _ (by omega)]
      rfl

/-- The copy keeps the canonical form of memory. -/
theorem State.copyBytes_wf (h : Memory.wf s.config.font s.mem = true) (a : Nat) (l : List Byte) :
    Memory.wf s.config.font (s.copyBytes a l).mem = true := by
  induction l generalizing s a with
  | nil => exact h
  | cons b rest ih => exact ih _ (State.setByte_wf h _ _) _

end Sys2Proof.Machine
end

