-- ==== Sys2Proof/Laws/PerInstr.lean ====
section
/-!
SUPPORT. The statements made for every instruction, one lemma per constructor. Family EncodeDecode: the decoder reads
back the encoding of a well-formed instruction, every operand at every value.
-/
namespace Sys2Proof.Laws.EncodeDecode

/-- Decoding the encoding of a well-formed instruction gives it back. -/
def Statement (i : Instr) : Prop := i.wellFormed = true → decode (encode i) = .ok i

theorem cls : Statement .cls := fun _ => by decide

theorem ret : Statement .ret := fun _ => by decide

theorem sys (nnn : Addr) : Statement (.sys nnn) := by
  intro h
  have h0 : packA 0x0#4 nnn ≠ 0x00E0#16 := fun e => by
    have h1 : nnn = 0x0E0#12 := by rw [← fieldNNN_packA 0x0#4 nnn, e]; decide
    subst h1; simp [Instr.wellFormed] at h
  have h1 : packA 0x0#4 nnn ≠ 0x00EE#16 := fun e => by
    have h1 : nnn = 0x0EE#12 := by rw [← fieldNNN_packA 0x0#4 nnn, e]; decide
    subst h1; simp [Instr.wellFormed] at h
  simp [encode, decode, decodeGroup0, h0, h1]

theorem jp (nnn : Addr) : Statement (.jp nnn) := by
  intro _; simp [encode, decode]

theorem call (nnn : Addr) : Statement (.call nnn) := by
  intro _; simp [encode, decode]

theorem seImm (x : Reg) (nn : Byte) : Statement (.seImm x nn) := by
  intro _; simp [encode, decode]

theorem sneImm (x : Reg) (nn : Byte) : Statement (.sneImm x nn) := by
  intro _; simp [encode, decode]

theorem seReg (x y : Reg) : Statement (.seReg x y) := by
  intro _; simp [encode, decode]

theorem ldImm (x : Reg) (nn : Byte) : Statement (.ldImm x nn) := by
  intro _; simp [encode, decode]

theorem addImm (x : Reg) (nn : Byte) : Statement (.addImm x nn) := by
  intro _; simp [encode, decode]

theorem ldReg (x y : Reg) : Statement (.ldReg x y) := by
  intro _; simp [encode, decode, decodeGroup8]

theorem orReg (x y : Reg) : Statement (.orReg x y) := by
  intro _; simp [encode, decode, decodeGroup8]

theorem andReg (x y : Reg) : Statement (.andReg x y) := by
  intro _; simp [encode, decode, decodeGroup8]

theorem xorReg (x y : Reg) : Statement (.xorReg x y) := by
  intro _; simp [encode, decode, decodeGroup8]

theorem addReg (x y : Reg) : Statement (.addReg x y) := by
  intro _; simp [encode, decode, decodeGroup8]

theorem subReg (x y : Reg) : Statement (.subReg x y) := by
  intro _; simp [encode, decode, decodeGroup8]

theorem shr (x y : Reg) : Statement (.shr x y) := by
  intro _; simp [encode, decode, decodeGroup8]

theorem subnReg (x y : Reg) : Statement (.subnReg x y) := by
  intro _; simp [encode, decode, decodeGroup8]

theorem shl (x y : Reg) : Statement (.shl x y) := by
  intro _; simp [encode, decode, decodeGroup8]

theorem sneReg (x y : Reg) : Statement (.sneReg x y) := by
  intro _; simp [encode, decode]

theorem ldI (nnn : Addr) : Statement (.ldI nnn) := by
  intro _; simp [encode, decode]

theorem jpV0 (nnn : Addr) : Statement (.jpV0 nnn) := by
  intro _; simp [encode, decode]

theorem rnd (x : Reg) (nn : Byte) : Statement (.rnd x nn) := by
  intro _; simp [encode, decode]

theorem drw (x y : Reg) (n : Nibble) : Statement (.drw x y n) := by
  intro _; simp [encode, decode]

theorem skp (x : Reg) : Statement (.skp x) := by
  intro _; simp [encode, decode, decodeGroupE]

theorem sknp (x : Reg) : Statement (.sknp x) := by
  intro _; simp [encode, decode, decodeGroupE]

theorem ldVxDt (x : Reg) : Statement (.ldVxDt x) := by
  intro _; simp [encode, decode, decodeGroupF]

theorem ldVxK (x : Reg) : Statement (.ldVxK x) := by
  intro _; simp [encode, decode, decodeGroupF]

theorem ldDtVx (x : Reg) : Statement (.ldDtVx x) := by
  intro _; simp [encode, decode, decodeGroupF]

theorem ldStVx (x : Reg) : Statement (.ldStVx x) := by
  intro _; simp [encode, decode, decodeGroupF]

theorem addI (x : Reg) : Statement (.addI x) := by
  intro _; simp [encode, decode, decodeGroupF]

theorem ldF (x : Reg) : Statement (.ldF x) := by
  intro _; simp [encode, decode, decodeGroupF]

theorem ldB (x : Reg) : Statement (.ldB x) := by
  intro _; simp [encode, decode, decodeGroupF]

theorem storeRegs (x : Reg) : Statement (.storeRegs x) := by
  intro _; simp [encode, decode, decodeGroupF]

theorem loadRegs (x : Reg) : Statement (.loadRegs x) := by
  intro _; simp [encode, decode, decodeGroupF]

end Sys2Proof.Laws.EncodeDecode
end

