-- ==== Sys2Proof/Laws/Step.lean ====
section
/-!
SUPPORT. What a step can do, said once: a halted cycle, the cycle of a decoded instruction, or the cycle of an
unrecognized word; and what one more step does to a run.
-/
namespace Sys2Proof.Machine

variable {s t : State}

theorem completeCycle_next {o : Host.Outcome State Fault Refusal} (h : completeCycle o = .next t) :
    ∃ e, o = .next e ∧ t = e.finishCycle := by
  cases o with
  | next e => exact ⟨e, rfl, by simpa [completeCycle] using h.symm⟩
  | fault r => cases h
  | refused r => cases h

/-- The inversion of a step. -/
theorem step_cases (h : step s = .next t) :
    (s.halted = true ∧ t = s.idleCycle) ∨
    (s.halted = false ∧ ∃ i e, decode s.fetchWord = .ok i ∧ exec i s.beginCycle = .next e ∧ t = e.finishCycle) ∨
    (s.halted = false ∧ ∃ e, decode s.fetchWord = .error e ∧
      t = s.beginCycle.executeUnrecognized.finishCycle) := by
  unfold step at h
  cases hh : s.halted with
  | true => rw [hh] at h; exact .inl ⟨rfl, by simpa using h.symm⟩
  | false =>
    rw [hh] at h
    cases hd : decode s.fetchWord with
    | ok i =>
      rw [hd] at h
      obtain ⟨e, he, ht⟩ := completeCycle_next h
      exact .inr (.inl ⟨rfl, i, e, rfl, he, ht⟩)
    | error e =>
      rw [hd] at h
      exact .inr (.inr ⟨rfl, e, rfl, by simpa using h.symm⟩)

theorem step_halted (h : s.halted = true) : step s = .next s.idleCycle := by
  simp [step, h]

theorem step_decoded (h : s.halted = false) {i : Instr} (hd : decode s.fetchWord = .ok i) :
    step s = completeCycle (exec i s.beginCycle) := by
  simp [step, h, hd]

theorem step_unrecognized (h : s.halted = false) {e : Unrecognized} (hd : decode s.fetchWord = .error e) :
    step s = .next s.beginCycle.executeUnrecognized.finishCycle := by
  simp [step, h, hd]

/-- The stages after execution write the program counter, the timers, `FB_DIRTY`, the flag and the record. -/
theorem State.finishCycle_eq (s : State) :
    s.finishCycle = { s with
      pc := s.finishCycle.pc, dt := s.finishCycle.dt, st := s.finishCycle.st, fbDirty := s.finishCycle.fbDirty
      noAdvance := s.finishCycle.noAdvance, out := s.finishCycle.out } := by
  rcases Bool.eq_false_or_eq_true s.halted with hh | hh
  · rw [State.finishCycle_halted s hh]
  · rw [State.finishCycle_running s hh, State.advanceStage_eq]
    split
    · rw [State.timerTail_eq]; rfl
    · rw [State.setPc_eq, State.timerTail_eq]; rfl

/-! ### Runs -/

/-- The first step of a run, for any machine. -/
theorem run_succ_of_step (M : Host.Core) (k : Nat) {s t : M.State} (h : M.step s = .next t) :
    M.run (k + 1) s = M.run k t := by
  rw [Host.Core.run, h]

theorem step_of_run_succ (M : Host.Core) (k : Nat) {s u : M.State} (h : M.run (k + 1) s = .next u) :
    ∃ t, M.step s = .next t ∧ M.run k t = .next u := by
  rw [Host.Core.run] at h
  split at h
  · exact ⟨_, by assumption, h⟩
  · cases h
  · cases h

/-- The first step of a run of this machine. -/
theorem core_run_succ (k : Nat) {s t : State} (h : step s = .next t) :
    Sys2Proof.core.run (k + 1) s = Sys2Proof.core.run k t :=
  run_succ_of_step Sys2Proof.core k h

/-- A run of this machine of one step or more begins with a step. -/
theorem core_run_cases (k : Nat) {s u : State} (h : Sys2Proof.core.run (k + 1) s = .next u) :
    ∃ t, step s = .next t ∧ Sys2Proof.core.run k t = .next u :=
  step_of_run_succ Sys2Proof.core k h

end Sys2Proof.Machine
end

