-- ==== Sys2Proof/Tests/Slice0.lean ====
section
/-!
SUPPORT. Tests. Every expected value is written out by hand from the spec: the words from the opcode map (R97), the
results from the vectors of spec/95_test_vectors.md (named S, Y, J, A, M, D, K, H in the comments). After them stands,
for every obligation with hypotheses, a concrete state and operands that meet them.
-/
namespace Sys2Proof.Tests

open Sys2Proof Sys2Proof.Machine

/-! ### Helpers -/

/-- Did the machine answer a next state? -/
def answers (o : Host.Outcome State Fault Refusal) : Bool :=
  match o with
  | .next _ => true
  | .fault _ => false
  | .refused _ => false

/-- The next state, where there is one. -/
def result (d : State) (o : Host.Outcome State Fault Refusal) : State :=
  match o with
  | .next t => t
  | .fault _ => d
  | .refused _ => d

theorem eq_next_result {o : Host.Outcome State Fault Refusal} (d : State) (h : answers o = true) :
    o = .next (result d o) := by
  cases o <;> first | rfl | cases h

/-- The state after reset with some registers set. -/
def start (rs : List (Reg × Byte)) : State := rs.foldl (fun s p => s.setReg p.1 p.2) State.reset

/-- The state after reset with some bytes stored. -/
def stored (s : State) (bs : List (Nat × Byte)) : State := bs.foldl (fun s p => s.setByte p.1 p.2) s

/-- The state after reset with some keys held. -/
def holding (s : State) (ks : List (Fin 16)) : State := { s with keys := ks.foldl (fun k (j : Fin 16) => k.set j true j.isLt) s.keys }

/-- The state with one pixel on. -/
def lit (s : State) (px py : Nat) : State := { s with fb := Screen.toggle s.fb px py }

/-- The state after one step with the word `w` at `PC`. -/
def ran (s : State) (w : Nat) : State := result s (step (s.withFetchWord 16 w))

/-- The state after the instruction, without the rest of a cycle. -/
def executed (i : Instr) (s : State) : State := result s (exec i s)

/-- The three fields of the record. -/
def record (s : State) : Bool × Bool × Byte := (s.out.fbChanged, s.out.soundTick, s.out.diag)

/-- The pixels that are on in the first columns of the first rows. -/
def pixelsOn (s : State) (columns rows : Nat) : List (Nat × Nat) :=
  ((List.range rows).flatMap fun py => (List.range columns).map fun px => (px, py)).filter
    fun p => s.fb.pixel p.1 p.2

/-! ### Well-formedness: each check refuses an ill-formed term -/

theorem test_wellFormed_refuses_sys_0E0 : (Instr.sys 0x0E0).wellFormed = false := by decide
theorem test_wellFormed_refuses_sys_0EE : (Instr.sys 0x0EE).wellFormed = false := by decide
theorem test_wellFormed_accepts_sys_neighbours :
    (Instr.sys 0x0DF).wellFormed = true ∧ (Instr.sys 0x0EF).wellFormed = true ∧
      (Instr.sys 0x1E0).wellFormed = true ∧ (Instr.sys 0x000).wellFormed = true := by decide

/-! ### Decoding: every constructor from a word written out from its row of R97 -/

theorem test_decode_group0 :
    decodeTableWord 16 0x00E0 = some .cls ∧ decodeTableWord 16 0x00EE = some .ret ∧
      decodeTableWord 16 0x0ABC = some (.sys 0xABC) := by decide
theorem test_decode_flow :
    decodeTableWord 16 0x1ABC = some (.jp 0xABC) ∧ decodeTableWord 16 0x2ABC = some (.call 0xABC) ∧
      decodeTableWord 16 0xBABC = some (.jpV0 0xABC) := by decide
theorem test_decode_skips :
    decodeTableWord 16 0x3A5C = some (.seImm 0xA 0x5C) ∧ decodeTableWord 16 0x4A5C = some (.sneImm 0xA 0x5C) ∧
      decodeTableWord 16 0x5A70 = some (.seReg 0xA 7) ∧ decodeTableWord 16 0x9A70 = some (.sneReg 0xA 7) := by decide
theorem test_decode_immediates :
    decodeTableWord 16 0x6A5C = some (.ldImm 0xA 0x5C) ∧ decodeTableWord 16 0x7A5C = some (.addImm 0xA 0x5C) ∧
      decodeTableWord 16 0xCA5C = some (.rnd 0xA 0x5C) := by decide
theorem test_decode_group8_logic :
    decodeTableWord 16 0x8A70 = some (.ldReg 0xA 7) ∧ decodeTableWord 16 0x8A71 = some (.orReg 0xA 7) ∧
      decodeTableWord 16 0x8A72 = some (.andReg 0xA 7) ∧ decodeTableWord 16 0x8A73 = some (.xorReg 0xA 7) := by decide
theorem test_decode_group8_arithmetic :
    decodeTableWord 16 0x8A74 = some (.addReg 0xA 7) ∧ decodeTableWord 16 0x8A75 = some (.subReg 0xA 7) ∧
      decodeTableWord 16 0x8A76 = some (.shr 0xA 7) ∧ decodeTableWord 16 0x8A77 = some (.subnReg 0xA 7) ∧
      decodeTableWord 16 0x8A7E = some (.shl 0xA 7) := by decide
theorem test_decode_index_and_draw :
    decodeTableWord 16 0xAABC = some (.ldI 0xABC) ∧ decodeTableWord 16 0xDA7C = some (.drw 0xA 7 0xC) := by decide
theorem test_decode_groupE :
    decodeTableWord 16 0xEA9E = some (.skp 0xA) ∧ decodeTableWord 16 0xEAA1 = some (.sknp 0xA) := by decide
theorem test_decode_groupF_timers :
    decodeTableWord 16 0xFA07 = some (.ldVxDt 0xA) ∧ decodeTableWord 16 0xFA0A = some (.ldVxK 0xA) ∧
      decodeTableWord 16 0xFA15 = some (.ldDtVx 0xA) ∧ decodeTableWord 16 0xFA18 = some (.ldStVx 0xA) := by decide
theorem test_decode_groupF_index :
    decodeTableWord 16 0xFA1E = some (.addI 0xA) ∧ decodeTableWord 16 0xFA29 = some (.ldF 0xA) ∧
      decodeTableWord 16 0xFA33 = some (.ldB 0xA) ∧ decodeTableWord 16 0xFA55 = some (.storeRegs 0xA) ∧
      decodeTableWord 16 0xFA65 = some (.loadRegs 0xA) := by decide

/-- Rejected by name: one word of each group of R103, and a list too short to hold a word. -/
theorem test_decode_rejects :
    decode 0x5121#16 = .error (.group5 1) ∧ decode 0x8128#16 = .error (.group8 8) ∧
      decode 0x912F#16 = .error (.group9 0xF) ∧ decode 0xE19F#16 = .error (.groupE 0x9F) ∧
      decode 0xF199#16 = .error (.groupF 0x99) := by decide
theorem test_decode_rejects_short :
    decodeBytes [0x12] = .error .truncated ∧ decodeBytes [] = .error .truncated := by decide
theorem test_decode_leaves_the_rest : decodeBytes [0x12, 0x34, 0x56] = .ok (.jp 0x234, [0x56]) := by decide

/-! ### Reset and the cycle -/

theorem test_reset_registers : -- R43
    State.reset.pc = 0x200 ∧ State.reset.sp = 0 ∧ State.reset.i = 0 ∧ State.reset.dt = 0 ∧
      State.reset.st = 0 ∧ State.reset.halted = false ∧ State.reset.fault = 0 ∧ State.reset.fbDirty = true := by decide
theorem test_reset_memory : -- glyph A at 0x032 (R71), then zeros (R43)
    (List.range 6).map (fun k => State.reset.byte (0x032 + k)) = [0xF0, 0x90, 0xF0, 0x90, 0x90, 0xE0] ∧
      State.reset.byte 0x04F = 0x80 ∧ State.reset.byte 0x050 = 0 ∧ State.reset.byte 0xFFF = 0 := by decide
theorem test_memory_wraps : (State.reset.memRead 0x1000).1 = 0xF0 ∧ -- R62
    (State.reset.memRead 0x1000).2.out.diag = 0x08 ∧ (State.reset.memRead 0xFFF).2.out.diag = 0 := by decide
theorem test_memory_write_back_removes_the_entry :
    (stored State.reset [(0x300, 5), (0x300, 0)]).mem = [] ∧ (stored State.reset [(0, 5), (0, 0xF0)]).mem = [] ∧
      (stored State.reset [(0x300, 5), (0, 0)]).mem = [(0, 0), (0x300, 5)] := by decide

theorem test_unrecognized : let t := ran State.reset 0x8008 -- Y1
    t.pc = 0x202 ∧ record t = (false, false, 0x01) := by decide
theorem test_sys : let t := ran State.reset 0x0123 -- Y2
    t.pc = 0x202 ∧ record t = (false, false, 0x02) := by decide
theorem test_reset_runs_sys : -- Y3
    record (result State.reset (step State.reset)) = (false, false, 0x02) := by decide
theorem test_advance_wraps : let t := ran { State.reset with pc := 0xFFE } 0x6007 -- Y8
    t.reg 0 = 7 ∧ t.pc = 0 ∧ record t = (false, false, 0x04) := by decide
theorem test_fetch_wraps : let t := ran { State.reset with pc := 0xFFF } 0x60F0 -- Y9
    t.reg 0 = 0xF0 ∧ t.pc = 1 ∧ record t = (false, false, 0x04) := by decide
theorem test_halted : -- Y10
    let t := result State.reset (step { State.reset with halted := true, fault := 1, dt := 5 })
    t.pc = 0x200 ∧ t.dt = 5 ∧ record t = (false, false, 0) := by decide
theorem test_diagnostics_accumulate : -- Y12
    record (ran { State.reset with pc := 0xFFE } 0xF099) = (false, false, 0x05) := by decide

/-! ### Control transfer and skips -/

theorem test_jp : let t := ran { State.reset with dt := 3, st := 2 } 0x1200 -- Y11
    t.pc = 0x200 ∧ t.dt = 2 ∧ t.st = 1 ∧ record t = (false, true, 0) := by decide
theorem test_jp_odd : (ran State.reset 0x1FFF).pc = 0xFFF := by decide -- J2
theorem test_call_wraps : let t := ran { State.reset with pc := 0xFFE } 0x2300 -- J4
    t.stackEntry 0 = 0 ∧ t.sp = 1 ∧ t.pc = 0x300 ∧ record t = (false, false, 0x04) := by decide
theorem test_call_full : let t := ran { State.reset with sp := 16 } 0x2300 -- J5
    t.halted = true ∧ t.fault = 1 ∧ t.pc = 0x200 ∧ t.sp = 16 ∧ record t = (false, false, 0x20) := by decide
theorem test_ret : -- J7
    let t := ran { State.reset with pc := 0x300, sp := 1, stack := State.reset.stack.set 0 0x202 } 0x00EE
    t.pc = 0x202 ∧ t.sp = 0 ∧ record t = (false, false, 0) := by decide
theorem test_ret_empty : let t := ran { State.reset with dt := 4 } 0x00EE -- J8
    t.halted = true ∧ t.fault = 2 ∧ t.pc = 0x200 ∧ t.dt = 4 ∧ record t = (false, false, 0x40) := by decide
theorem test_seImm : -- S7
    (ran (start [(3, 0x2A)]) 0x332A).pc = 0x204 ∧ (ran (start [(3, 0x2B)]) 0x332A).pc = 0x202 := by decide
theorem test_seImm_wraps : let t := ran { State.reset with pc := 0xFFC } 0x3000 -- J19
    t.pc = 0 ∧ record t = (false, false, 0x04) := by decide
theorem test_sneImm : -- J9, J10
    (ran (start [(3, 0x2B)]) 0x432A).pc = 0x204 ∧ (ran (start [(3, 0x2A)]) 0x432A).pc = 0x202 := by decide
theorem test_seReg : -- J12, J13
    (ran (start [(1, 7), (2, 7)]) 0x5120).pc = 0x204 ∧ (ran (start [(1, 9)]) 0x5110).pc = 0x204 := by decide
theorem test_sneReg : -- J14, J15
    (ran (start [(1, 7), (2, 8)]) 0x9120).pc = 0x204 ∧ (ran (start [(1, 7)]) 0x9110).pc = 0x202 := by decide
theorem test_jpV0 : (ran (start [(0, 0x01), (5, 0x50)]) 0xB500).pc = 0x501 := by decide -- J18
theorem test_jpV0_wraps : let t := ran (start [(0, 0xFF)]) 0xBFFF -- J17
    t.pc = 0x0FE ∧ record t = (false, false, 0x04) := by decide

/-! ### Register arithmetic, logic and random -/

theorem test_ldImm : let t := ran State.reset 0x600A -- S2
    t.reg 0 = 10 ∧ t.pc = 0x202 ∧ record t = (false, false, 0) := by decide
theorem test_addImm : let t := ran (start [(1, 0xFF), (15, 0x07)]) 0x7102 -- A2
    t.reg 1 = 0x01 ∧ t.reg 15 = 0x07 := by decide
theorem test_ldReg : (ran (start [(2, 0x55)]) 0x8120).reg 1 = 0x55 := by decide -- A4
theorem test_or : let t := ran (start [(1, 0x0F), (2, 0xF0), (15, 0x01)]) 0x8121 -- A5
    t.reg 1 = 0xFF ∧ t.reg 15 = 0x01 := by decide
theorem test_and : let t := ran (start [(1, 0x3C), (2, 0x0F), (15, 0x01)]) 0x8122 -- A6
    t.reg 1 = 0x0C ∧ t.reg 15 = 0x01 := by decide
theorem test_xor : (ran (start [(1, 0x3C), (2, 0x0F)]) 0x8123).reg 1 = 0x33 := by decide -- A7
theorem test_addReg : let t := ran (start [(1, 200), (2, 100)]) 0x8124 -- S3
    t.reg 1 = 44 ∧ t.reg 15 = 1 := by decide
theorem test_addReg_into_vf : (ran (start [(15, 0xC8), (1, 0x64)]) 0x8F14).reg 15 = 1 := by decide -- A11
theorem test_sub_borrow : let t := ran (start [(1, 5), (2, 10)]) 0x8125 -- S5
    t.reg 1 = 251 ∧ t.reg 15 = 0 := by decide
theorem test_sub_equal : let t := ran (start [(1, 7), (2, 7)]) 0x8125 -- A14
    t.reg 1 = 0 ∧ t.reg 15 = 1 := by decide
theorem test_shr : let t := ran (start [(1, 0x80), (2, 0x01)]) 0x8126 -- A18
    t.reg 1 = 0x40 ∧ t.reg 15 = 0 := by decide
theorem test_shr_vf : (ran (start [(15, 0x03)]) 0x8F06).reg 15 = 1 := by decide -- A19
theorem test_subn_borrow : let t := ran (start [(1, 10), (2, 5)]) 0x8127 -- A20
    t.reg 1 = 251 ∧ t.reg 15 = 0 := by decide
theorem test_subn : let t := ran (start [(1, 5), (2, 10)]) 0x8127 -- A21
    t.reg 1 = 5 ∧ t.reg 15 = 1 := by decide
theorem test_shl : let t := ran (start [(1, 0x81)]) 0x810E -- A22
    t.reg 1 = 0x02 ∧ t.reg 15 = 1 := by decide
theorem test_shl_ignores_y : let t := ran (start [(1, 0x01)]) 0x81FE -- A24
    t.reg 1 = 0x02 ∧ t.reg 15 = 0 := by decide
theorem test_rnd_range : -- A26, A28
    (executed (.rnd 5 0x0F) { State.reset with draw := 0x37 }).reg 5 = 0x07 ∧
      (executed (.rnd 5 0x0A) { State.reset with draw := 0xFF }).reg 5 = 0x02 := by decide
theorem test_rnd_mask : -- A27, A29
    let c : Config := { standardConfig with rndMode := .mask }
    (executed (.rnd 5 0x0F) { State.resetWith c with draw := 0x37 }).reg 5 = 0x07 ∧
      (executed (.rnd 5 0x0A) { State.resetWith c with draw := 0xFF }).reg 5 = 0x0A := by decide

/-! ### Index register and memory -/

theorem test_ldI : (ran State.reset 0xA123).i = 0x123 := by decide -- M1
theorem test_addI : let t := ran { start [(3, 0x05)] with i := 0xFFE } 0xF31E -- M3
    t.i = 0x1003 ∧ t.reg 15 = 0 ∧ record t = (false, false, 0x10) := by decide
theorem test_addI_wraps : let t := ran { start [(3, 0x02)] with i := 0xFFFF } 0xF31E -- M4
    t.i = 0x0001 ∧ record t = (false, false, 0) := by decide
theorem test_ldF : (ran (start [(0, 0x0A)]) 0xF029).i = 0x032 ∧ -- M5, M7
    (ran (start [(0, 0xFF)]) 0xF029).i = 0x4FB := by decide
theorem test_ldB : let t := ran { start [(10, 156)] with i := 0x300 } 0xFA33 -- M8
    (t.byte 0x300, t.byte 0x301, t.byte 0x302, t.byte 0x303) = (1, 5, 6, 0) ∧ t.i = 0x300 ∧
      record t = (false, false, 0) := by decide
theorem test_ldB_wraps : let t := ran { start [(10, 123)] with i := 0xFFF } 0xFA33 -- M11
    (t.byte 0xFFF, t.byte 0x000, t.byte 0x001, t.byte 0x002) = (1, 2, 3, 0x90) ∧
      record t = (false, false, 0x08) := by decide
theorem test_storeRegs : -- M12
    let t := ran { start [(0, 0x11), (1, 0x22), (2, 0x33), (3, 0x44)] with i := 0x400 } 0xF255
    (t.byte 0x400, t.byte 0x401, t.byte 0x402, t.byte 0x403) = (0x11, 0x22, 0x33, 0) ∧ t.i = 0x400 ∧
      record t = (false, false, 0) := by decide
theorem test_storeRegs_wraps : let t := ran { start [(15, 0x0F), (7, 0x07), (8, 0x08)] with i := 0xFF8 } 0xFF55 -- M13
    (t.byte 0xFFF, t.byte 0x000, t.byte 0x007) = (0x07, 0x08, 0x0F) ∧ record t = (false, false, 0x08) := by decide
theorem test_loadRegs : -- M14
    let t := ran (stored { start [(3, 0x77)] with i := 0x300 } [(0x300, 1), (0x301, 5), (0x302, 6)]) 0xF265
    (t.reg 0, t.reg 1, t.reg 2, t.reg 3) = (1, 5, 6, 0x77) ∧ t.i = 0x300 ∧ record t = (false, false, 0) := by decide
theorem test_loadRegs_wraps : let t := ran { State.reset with i := 0x1003 } 0xF065 -- M16
    t.reg 0 = 0x90 ∧ record t = (false, false, 0x08) := by decide

/-! ### The framebuffer -/

theorem test_cls : let t := ran (lit State.reset 5 5) 0x00E0 -- D1
    pixelsOn t 8 8 = [] ∧ record t = (true, false, 0) := by decide
theorem test_drw_glyph : let t := ran State.reset 0xD121 -- D3, its first row
    pixelsOn t 10 2 = [(0, 0), (1, 0), (2, 0), (3, 0)] ∧ t.reg 15 = 0 ∧ record t = (true, false, 0) := by decide
theorem test_drw_clips : let t := ran (start [(0, 62)]) 0xD011 -- D4
    pixelsOn t 64 2 = [(62, 0), (63, 0)] ∧ t.reg 15 = 0 := by decide
theorem test_drw_collides : -- D9
    let t := ran (lit (stored { State.reset with i := 0x300 } [(0x300, 0xC0)]) 1 0) 0xD011
    pixelsOn t 10 2 = [(0, 0)] ∧ t.reg 15 = 1 := by decide

/-! ### Keys and timers -/

theorem test_skp : -- K1, K3
    (ran (holding (start [(1, 5)]) [5]) 0xE19E).pc = 0x204 ∧
      (ran (holding (start [(1, 0x15)]) (List.finRange 16)) 0xE19E).pc = 0x202 := by decide
theorem test_sknp : -- K5, K6
    (ran (holding (start [(1, 5)]) [5, 6]) 0xE1A1).pc = 0x202 ∧ (ran (start [(1, 0x20)]) 0xE1A1).pc = 0x204 := by decide
theorem test_ldVxDt : let t := ran { State.reset with dt := 7 } 0xF207 -- K7
    t.reg 2 = 7 ∧ t.dt = 6 := by decide
theorem test_ldVxK_waits : let t := ran { start [(3, 0x44)] with dt := 5, st := 1 } 0xF30A -- K9
    t.pc = 0x200 ∧ t.reg 3 = 0x44 ∧ t.dt = 4 ∧ t.st = 0 ∧ record t = (false, true, 0) := by decide
theorem test_ldVxK : let t := ran (holding State.reset [9, 3]) 0xF30A -- K10
    t.reg 3 = 3 ∧ t.pc = 0x202 := by decide
theorem test_ldDtVx : (ran (start [(0, 5)]) 0xF015).dt = 4 ∧ -- K12, K14
    (ran { State.reset with dt := 9 } 0xF015).dt = 0 := by decide
theorem test_ldStVx : let t := ran (start [(0, 2)]) 0xF018 -- K15
    t.st = 1 ∧ record t = (false, true, 0) := by decide

/-! ### Host operations -/

theorem test_load : let t := (State.reset.loadOp [0x60, 0x0A, 0x12, 0x02]).2 -- S1
    (t.byte 0x200, t.byte 0x201, t.byte 0x202, t.byte 0x203, t.byte 0x204) = (0x60, 0x0A, 0x12, 0x02, 0) ∧
      t.hasLoadedProgram = true := by decide
theorem test_load_bound : -- H1, H2
    loadTooLarge standardConfig 3584 = false ∧ loadTooLarge standardConfig 3585 = true := by decide
theorem test_hasLoadedProgram : -- H4, H5
    (State.reset.loadOp [0x00, 0x00, 0x12, 0x02]).2.hasLoadedProgram = false ∧
      (State.reset.loadOp [0x00, 0x01]).2.hasLoadedProgram = true := by decide
theorem test_key_operations : -- H6, and a key held
    (State.reset.setKey 16 true).1 = .noSuchKey ∧ (State.reset.setKey 16 true).2.keys = State.reset.keys ∧
      (State.reset.setKey 15 true).2.key 15 = true ∧ (State.reset.setKey 15 true).2.key 14 = false := by decide
theorem test_reset_leaves_the_halted_state : -- H9
    let t := State.resetOp { State.reset with halted := true, fault := 2, pc := 0x208 }
    t.halted = false ∧ t.fault = 0 ∧ t.pc = 0x200 := by decide

/-! ### Witnesses: for every obligation with hypotheses, a state and operands that meet them together -/

/-- A state that has pushed one return address: SP = 1 and 0x202 below it. -/
def called : State := { State.reset with sp := 1, stack := State.reset.stack.set 0 0x202 }

/-- The word `w` stands at `PC`. -/
def at_pc (s : State) (w : Nat) : State := s.withFetchWord 16 w

theorem witness_DecodeInvertsEncode :
    (Instr.sys 0x0EF).wellFormed = true ∧ (Instr.drw 15 15 15).wellFormed = true := by decide
theorem witness_EncodeInvertsDecode : decode 0xFF65#16 = .ok (.loadRegs 15) := by decide
/-- The clauses under a condition, at the ends of their ranges. -/
theorem witness_DecodeFollowsTheOpcodeMap :
    packA 0x0#4 0x0EF ≠ 0x00E0#16 ∧ packA 0x0#4 0x0EF ≠ 0x00EE#16 ∧ (0x1#4 : Nibble) ≠ 0x0#4 ∧
      (0x7 < (0x8#4 : Nibble).toNat ∧ (0x8#4 : Nibble) ≠ 0xE#4) ∧
      (0x7 < (0xF#4 : Nibble).toNat ∧ (0xF#4 : Nibble) ≠ 0xE#4) ∧ ((0x9F#8 : Byte) ≠ 0x9E#8 ∧ (0x9F#8 : Byte) ≠ 0xA1#8) ∧
      (0x66#8 : Byte).toNat ∉ [0x07, 0x0A, 0x15, 0x18, 0x1E, 0x29, 0x33, 0x55, 0x65] := by decide
/-- Memory in canonical form with bytes listed: also the premise of BcdStoresThreeDigits and
RegisterDumpStoresTheBlock. -/
theorem witness_MemoryAccessReducesAndReports : let s := stored State.reset [(0x000, 5), (0x300, 1), (0xFFF, 7)]
    Memory.wf s.config.font s.mem = true ∧ s.mem.length = 3 := by decide
theorem witness_EqualMemoriesAreEqualData :
    let m := (stored State.reset [(0x300, 1), (0xFFF, 7)]).mem
    let m' := (stored State.reset [(0xFFF, 7), (0x300, 9), (0x300, 1)]).mem
    Memory.wf defaultFont m = true ∧ Memory.wf defaultFont m' = true ∧
      ∀ a, a < 4096 → Memory.read defaultFont m a = Memory.read defaultFont m' a := by
  refine ⟨by decide, by decide, fun a _ => ?_⟩
  rw [show (stored State.reset [(0x300, 1), (0xFFF, 7)]).mem
    = (stored State.reset [(0xFFF, 7), (0x300, 9), (0x300, 1)]).mem by decide]

/-- The state at the start of the cycle, as StepRunsTheDecodedInstruction writes it. -/
def cycleStart (s : State) : State :=
  { s with noAdvance := false, draw := Config.freeByte s.draws, draws := s.draws + 1,
           out := { fbChanged := false, soundTick := false, diag := if s.pc = 0xFFF then 0x04 else 0x00 } }

/-- Both clauses: an instruction that completes (with `PC` at the last byte of memory), and a stack fault. -/
theorem witness_StepRunsTheDecodedInstruction :
    (let s := at_pc { State.reset with pc := 0xFFF } 0x60F0
     s.halted = false ∧
       decode (wordOfBytes (s.byte s.pc.toNat) (s.byte ((s.pc.toNat + 1) % 4096))) = .ok (.ldImm 0 0xF0) ∧
       ∃ e, exec (.ldImm 0 0xF0) (cycleStart s) = .next e ∧ e.halted = false) ∧
    (let s := at_pc State.reset 0x00EE
     s.halted = false ∧
       decode (wordOfBytes (s.byte s.pc.toNat) (s.byte ((s.pc.toNat + 1) % 4096))) = .ok .ret ∧
       ∃ e, exec .ret (cycleStart s) = .next e ∧ e.halted = true) :=
  ⟨⟨by decide, by decide, _, eq_next_result State.reset (by decide), by decide⟩,
   ⟨by decide, by decide, _, eq_next_result State.reset (by decide), by decide⟩⟩

theorem witness_WordsWithoutSemanticsAreNoOps :
    ((at_pc State.reset 0x8008).halted = false ∧ ∃ e, decode (at_pc State.reset 0x8008).fetchWord = .error e) ∧
    (State.reset.halted = false ∧ ∃ nnn, decode State.reset.fetchWord = .ok (.sys nnn)) :=
  ⟨⟨by decide, .group8 8, by decide⟩, ⟨by decide, 0, by decide⟩⟩
theorem witness_HaltedBlockDoesNothing : (ran State.reset 0x00EE).halted = true := by decide
theorem witness_StackFaultIsPrecise :
    (let s := at_pc { State.reset with sp := 16 } 0x2300
     s.halted = false ∧ decode s.fetchWord = .ok (.call 0x300) ∧ s.sp = s.config.stackDepth) ∧
    (let s := at_pc State.reset 0x00EE
     s.halted = false ∧ decode s.fetchWord = .ok .ret ∧ s.sp = 0) := by decide
/-- A cycle that halts, and one that does not. -/
theorem witness_OnlyStackFaultsHalt :
    (∃ t, step (at_pc State.reset 0x00EE) = .next t ∧ t.halted = true) ∧ (at_pc State.reset 0x00EE).halted = false ∧
    (∃ t, step (at_pc called 0x00EE) = .next t ∧ t.halted = false) ∧ (at_pc called 0x00EE).halted = false :=
  ⟨⟨_, eq_next_result State.reset (by decide), by decide⟩, by decide,
   ⟨_, eq_next_result State.reset (by decide), by decide⟩, by decide⟩
theorem witness_PcAfterEveryInstruction : let s := at_pc { start [(0, 0xFF)] with pc := 0xFFE } 0xBFFF
    s.halted = false ∧ decode s.fetchWord = .ok (.jpV0 0xFFF) ∧ (Instr.jpV0 0xFFF).stackFault s = none ∧
      ∃ t, step s = .next t :=
  ⟨by decide, by decide, by decide, _, eq_next_result State.reset (by decide)⟩
/-- One state for every one of the seven diagnostics. -/
theorem witness_EveryCycleReportsItsDiagnostics :
    (ran State.reset 0x8008).out.diag.getLsbD 0 = true ∧ (ran State.reset 0x0000).out.diag.getLsbD 1 = true ∧
      (ran { State.reset with pc := 0xFFE } 0x2300).out.diag.getLsbD 2 = true ∧
      (ran { State.reset with i := 0xFFE } 0xF033).out.diag.getLsbD 3 = true ∧
      (ran { start [(3, 1)] with i := 0xFFF } 0xF31E).out.diag.getLsbD 4 = true ∧
      (ran { State.reset with sp := 16 } 0x2300).out.diag.getLsbD 5 = true ∧
      (ran State.reset 0x00EE).out.diag.getLsbD 6 = true := by decide
theorem witness_TimersCountEveryCycle : let s := at_pc { start [(0, 2)] with dt := 1, st := 9 } 0xF018
    s.halted = false ∧ ∃ t, step s = .next t ∧ t.halted = false ∧ t.st = 1 ∧ t.dt = 0 :=
  ⟨by decide, _, eq_next_result State.reset (by decide), by decide, by decide, by decide⟩
/-- One cycle from a state whose instruction is no LD DT: the premises at k = 1. -/
theorem witness_DelayTimerRunsDown : let s := { State.reset with dt := 5 }
    s.halted = false ∧ (∃ u, Sys2Proof.core.run 1 s = .next u ∧ u.halted = false) ∧
      ∀ j r x, j < 1 → Sys2Proof.core.run j s = .next r → decode r.fetchWord ≠ .ok (.ldDtVx x) := by
  refine ⟨by decide, ⟨result State.reset (step { State.reset with dt := 5 }), ?_, by decide⟩, ?_⟩
  · show (Sys2Proof.core.run 1 { State.reset with dt := 5 } = _)
    rw [show Sys2Proof.core.run 1 { State.reset with dt := 5 } = step { State.reset with dt := 5 } from rfl]
    exact eq_next_result State.reset (by decide)
  · intro j r x hj hr
    obtain rfl : j = 0 := by omega
    cases hr
    rw [show decode (State.fetchWord { State.reset with dt := 5 }) = .ok (.sys 0) by decide]
    intro h
    cases h
theorem witness_FbChangedExactlyForClsAndDrw :
    (∃ t, step (at_pc State.reset 0xD125) = .next t ∧ t.out.fbChanged = true) ∧
      ∃ t, step (at_pc State.reset 0x6000) = .next t ∧ t.out.fbChanged = false :=
  ⟨⟨_, eq_next_result State.reset (by decide), by decide⟩, ⟨_, eq_next_result State.reset (by decide), by decide⟩⟩
/-- Both clauses: the jump to itself, also at 0xFFF where its fetch wraps, and a halted block. -/
theorem witness_SelfJumpEndsTheRun :
    (at_pc State.reset 0x1200).halted = false ∧
      decode (at_pc State.reset 0x1200).fetchWord = .ok (.jp (at_pc State.reset 0x1200).pc) ∧
      (at_pc State.reset 0x1200).runEnded = true ∧ (ran State.reset 0x00EE).runEnded = true ∧
      decode (at_pc { State.reset with pc := 0xFFF } 0x1FFF).fetchWord = .ok (.jp 0xFFF) := by decide
/-- Both readings of the result set, with a byte in it and one outside. -/
theorem witness_RndReachesExactlyItsResultSet :
    State.reset.config.rndMode = .range ∧ (10 : Byte).toNat ≤ (0x0A : Byte).toNat ∧
      ¬ (11 : Byte).toNat ≤ (0x0A : Byte).toNat ∧
      (State.resetWith { standardConfig with rndMode := .mask }).config.rndMode = .mask ∧
      (8 : Byte) &&& 0x0A = 8 ∧ (1 : Byte) &&& 0x0A ≠ 1 := by decide
theorem witness_OnlyRndReadsTheRandomByte :
    (∀ x nn, Instr.addReg 1 2 ≠ .rnd x nn) ∧ ∃ t, exec (.addReg 1 2) State.reset = .next t :=
  ⟨(fun _ _ h => nomatch h), _, rfl⟩
/-- Both clauses: the last free entry, and the full stack. -/
theorem witness_CallPushesTheNextAddress :
    (State.StackLegal { State.reset with sp := 15 } ∧ State.StackLegal { State.reset with sp := 16 }) ∧
      15 < State.reset.config.stackDepth ∧ 16 = State.reset.config.stackDepth := by decide
theorem witness_RetPopsIntoPc : 0 < called.sp ∧ State.reset.sp = 0 := by decide
theorem witness_RetResumesAfterItsCall :
    State.reset.StackLegal ∧ State.reset.sp < State.reset.config.stackDepth ∧
      ∃ t, exec (.call 0x300) State.reset = .next t ∧ (t.setReg 3 7).stack = t.stack ∧ (t.setReg 3 7).sp = t.sp :=
  ⟨by decide, by decide, _, eq_next_result State.reset (by decide), State.setReg_stack .., State.setReg_sp ..⟩
/-- Both outcomes of each condition. -/
theorem witness_CompareSkips :
    (start [(3, 0x2A)]).reg 3 = 0x2A ∧ (start [(3, 0x2B)]).reg 3 ≠ 0x2A ∧
      (start [(1, 7), (2, 7)]).reg 1 = (start [(1, 7), (2, 7)]).reg 2 ∧
      (start [(1, 7), (2, 8)]).reg 1 ≠ (start [(1, 7), (2, 8)]).reg 2 := by decide
/-- Key 15 held; and 16, which names no key. -/
theorem witness_KeySkips :
    (∃ k : Fin 16, ((start [(1, 15)]).reg 1).toNat = k.val ∧ (holding (start [(1, 15)]) [15]).keys[k] = true) ∧
      ¬ ∃ k : Fin 16, ((start [(1, 16)]).reg 1).toNat = k.val ∧
        (holding (start [(1, 16)]) (List.finRange 16)).keys[k] = true := by decide
/-- The largest block, over the top of memory. -/
theorem witness_BcdAndRegisterDump : let s := { start [(15, 255)] with i := 0xFFF }
    Memory.wf s.config.font s.mem = true ∧ answers (exec (.ldB 15) s) = true ∧
      answers (exec (.storeRegs 15) s) = true := by decide
theorem witness_DumpThenLoadRestoresTheRegisters : let s := { start [(15, 255)] with i := 0xFF8 }
    Memory.wf s.config.font s.mem = true ∧ ∃ t, exec (.storeRegs 15) s = .next t ∧
      (t.setReg 15 0).mem = t.mem ∧ (t.setReg 15 0).config = t.config ∧ (t.setReg 15 0).i = t.i :=
  ⟨by decide, _, eq_next_result State.reset (by decide), State.setReg_mem .., State.setReg_config .., State.setReg_i ..⟩
/-- Each of the three cases, at the end of its range. -/
theorem witness_EmptyAndOffGridDrawsTouchNoPixel :
    (0x0#4 : Nibble) = 0 ∧ 64 ≤ ((start [(0, 64)]).reg 0).toNat ∧ 32 ≤ ((start [(1, 32)]).reg 1).toNat ∧
      ¬ (64 ≤ ((start [(0, 63)]).reg 0).toNat ∨ 32 ≤ ((start [(1, 31)]).reg 1).toNat) := by decide
/-- Both clauses: no key held; and keys 15 and 9 held, 9 the lowest. -/
theorem witness_AwaitKeyTakesTheLowestHeldKey :
    (∀ k : Fin 16, State.reset.keys[k] = false) ∧
      (holding State.reset [15, 9]).keys[(9 : Fin 16)] = true ∧
      ∀ j : Fin 16, j < 9 → (holding State.reset [15, 9]).keys[j] = false := by decide
/-- Both clauses: no key held; and keys 15 and 9 held, 9 the lowest, with `PC` where the advance wraps. -/
theorem witness_KeyWaitOnlyTicksTheTimers :
    (let s := at_pc State.reset 0xF30A
     s.halted = false ∧ decode s.fetchWord = .ok (.ldVxK 3) ∧ ∀ k : Fin 16, s.keys[k] = false) ∧
    (let s := at_pc { holding State.reset [15, 9] with pc := 0xFFE } 0xF30A
     s.halted = false ∧ decode s.fetchWord = .ok (.ldVxK 3) ∧ s.keys[(9 : Fin 16)] = true ∧
       ∀ j : Fin 16, j < 9 → s.keys[j] = false) := by decide
/-- A store: V0 is read and not written, VF neither, and 0x403 lies outside the block. -/
theorem witness_Frames : let s := { start [(0, 0x11)] with i := 0x400 }
    (∃ t, exec (.storeRegs 2) s = .next t) ∧ (Instr.storeRegs 2).writesReg 0 = false ∧
      (Instr.storeRegs 2).readsReg 15 = false ∧ 0x403 ∉ (Instr.storeRegs 2).storedAddrs s :=
  ⟨⟨_, eq_next_result State.reset (by decide)⟩, by decide, by decide, by decide⟩
/-- Both clauses: a register written and not read (LD V3,nn; VF of ADD); one that a waiting LD V3,K leaves; and one
that ADD neither reads nor writes. -/
theorem witness_OnlyTheNamedRegistersAreRead :
    ((Instr.ldImm 3 7).readsReg 3 = false ∧ (Instr.ldImm 3 7).writesReg 3 = true ∧
      (Instr.ldImm 3 7).setsNoAdvance State.reset = false ∧ ∃ t, exec (.ldImm 3 7) State.reset = .next t) ∧
    ((Instr.addReg 1 2).readsReg 15 = false ∧ (Instr.addReg 1 2).writesReg 15 = true ∧
      (Instr.addReg 1 2).setsNoAdvance State.reset = false ∧ (Instr.addReg 1 2).readsReg 4 = false ∧
      (Instr.addReg 1 2).writesReg 4 = false ∧ ∃ t, exec (.addReg 1 2) State.reset = .next t) ∧
    ((Instr.ldVxK 3).readsReg 3 = false ∧ (Instr.ldVxK 3).setsNoAdvance State.reset = true ∧
      ∃ t, exec (.ldVxK 3) State.reset = .next t) :=
  ⟨⟨by decide, by decide, by decide, _, rfl⟩, ⟨by decide, by decide, by decide, by decide, by decide, _, rfl⟩,
   ⟨by decide, by decide, _, eq_next_result State.reset (by decide)⟩⟩
theorem witness_OnlyTheirInstructionsWrite :
    (∃ t, exec (.jp 0x300) State.reset = .next t) ∧
      (∀ nnn x, Instr.jp 0x300 ≠ .ldI nnn ∧ Instr.jp 0x300 ≠ .addI x ∧ Instr.jp 0x300 ≠ .ldF x) ∧
      (∀ nnn, Instr.jp 0x300 ≠ .call nnn ∧ Instr.jp 0x300 ≠ .ret) ∧
      (∀ x y n, Instr.jp 0x300 ≠ .cls ∧ Instr.jp 0x300 ≠ .drw x y n) ∧
      (∀ x, Instr.jp 0x300 ≠ .ldDtVx x ∧ Instr.jp 0x300 ≠ .ldStVx x) ∧
      (Instr.jp 0x300).stackFault State.reset = none ∧ (Instr.ldImm 0 0).setsNoAdvance State.reset = false := by
  refine ⟨⟨_, rfl⟩, ?_, ?_, ?_, ?_, by decide, by decide⟩ <;> intros <;> simp
/-- Two states that differ above `SP`, with a RET that pops the entry below it. -/
theorem witness_StackAboveSpIsUnobservable :
    let s := at_pc called 0x00EE
    let s' := { s with stack := s.stack.set 5 0x777 }
    s.StackLegal ∧ s.AgreeBelowSp s' ∧ s.stack ≠ s'.stack ∧ ∃ t, step s = .next t := by
  refine ⟨by decide, ⟨rfl, by decide, ?_⟩, by decide, _, eq_next_result State.reset (by decide)⟩
  intro k hk
  obtain rfl : k = 0 := by
    have : (at_pc called 0x00EE).sp = 1 := by decide
    omega
  decide
theorem witness_FbDirtyAndRecordAreInvisible : ∃ t, step (at_pc State.reset 0xD125) = .next t :=
  ⟨_, eq_next_result State.reset (by decide)⟩
/-- Also the premise of HostOperationsKeepTheInvariant. -/
theorem witness_StepKeepsTheInvariant : let s := at_pc { start [(10, 123)] with i := 0xFFF, sp := 3 } 0xFA33
    s.Inv ∧ ∃ t, step s = .next t := by
  refine ⟨by decide, _, eq_next_result State.reset (by decide)⟩
theorem witness_HostOperationsKeepTheInvariant :
    State.reset.Inv ∧ ∃ t, operateAll [.keyPress 3, .load [0x12, 0x00], .readFramebuffer, .reset] State.reset = .next t :=
  ⟨by decide, _, rfl⟩
/-- Both clauses at their bound: 3584 bytes fit and 3585 do not; and under the largest trailer the premise admits, the
empty sequence fits and one byte does not. -/
theorem witness_LoadResetsAndCopies :
    (∃ r, operate .reset State.reset = .next (.done, r)) ∧ State.reset.config.loadTrailer ≤ 3584 ∧
      (List.replicate 3584 (0 : Byte)).length ≤ 3584 - State.reset.config.loadTrailer ∧
      3584 - State.reset.config.loadTrailer < (List.replicate 3585 (0 : Byte)).length ∧
      (let s := State.resetWith { standardConfig with loadTrailer := 3584 }
       s.config.loadTrailer ≤ 3584 ∧ ([] : List Byte).length ≤ 3584 - s.config.loadTrailer ∧
         3584 - s.config.loadTrailer < [(0 : Byte)].length) := by
  refine ⟨⟨_, rfl⟩, by decide, ?_, ?_, by decide⟩ <;> rw [List.length_replicate] <;> decide
/-- Both clauses at their bound. -/
theorem witness_KeyOperationsSetOneKey : 15 < 16 ∧ 16 ≤ 16 := by decide
theorem witness_ReadsAnswerAndChangeOnlyFbDirty :
    (∃ b t, operate .hasLoadedProgram State.reset = .next (.hasProgram b, t)) ∧
      ∃ t, operateAll [.readFramebuffer] State.reset = .next t :=
  ⟨⟨_, _, rfl⟩, _, rfl⟩

end Sys2Proof.Tests
end

section
/-!
PROOFS. What the execute stage and the later stages of a cycle do to `fb_changed`, `FB_DIRTY` and the status, and what
the host's key operations and reads answer; with them O19, O59 and O60.
-/
namespace Sys2Proof

/-! ### The execute stage and the framebuffer record -/

/-- The instructions that set `fb_changed`: CLS and DRW (R48). -/
def Instr.marksFbChanged : Instr → Bool
  | .cls | .drw _ _ _ => true
  | _ => false

theorem Instr.marksFbChanged_iff (i : Instr) :
    i.marksFbChanged = true ↔ i = .cls ∨ ∃ x y n, i = .drw x y n := by
  cases i <;> simp [Instr.marksFbChanged]

namespace Machine

variable {i : Instr} {s e : State}

theorem State.skipIf_frame (s : State) (c : Bool) :
    s.skipIf c = { s with
      pc := (s.skipIf c).pc, out := { s.out with diag := (s.skipIf c).out.diag } } := by
  cases c
  · rfl
  · rw [State.skipIf_eq, if_pos rfl, State.setPc_eq]

theorem State.jump_frame (s : State) (a : Nat) :
    s.jump a = { s with
      pc := (s.jump a).pc, noAdvance := true, out := { s.out with diag := (s.jump a).out.diag } } := by
  rw [State.jump_eq, State.setPc_eq]

/-- CLS and DRW write registers, the framebuffer, `fb_changed` and `diag`, and nothing else. -/
theorem exec_eq_of_marksFbChanged (hi : i.marksFbChanged = true) (h : exec i s = .next e) :
    e = { s with v := e.v, fb := e.fb, out := { s.out with fbChanged := true, diag := e.out.diag } } := by
  obtain rfl | ⟨x, y, n, rfl⟩ := i.marksFbChanged_iff.1 hi
  · cases h; rfl
  · cases h
    rw [State.drawRows_eq]
    rfl

/-- No other instruction writes the framebuffer, its flags, the keys, the random byte or the parameters. -/
theorem exec_eq_of_not_marksFbChanged (hi : i.marksFbChanged = false) (h : exec i s = .next e) :
    e = { e with
      fb := s.fb, keys := s.keys, fbDirty := s.fbDirty, draw := s.draw, draws := s.draws, config := s.config
      out := { s.out with diag := e.out.diag } } := by
  cases i with
  | cls | drw => cases hi
  | ldImm | addImm | ldReg | orReg | andReg | xorReg | addReg | subReg | shr | subnReg | shl | rnd | ldI | ldF
  | ldVxDt | ldDtVx | ldStVx | sys => cases h; rfl
  | seImm | sneImm | seReg | sneReg | skp | sknp => cases h; rw [State.skipIf_frame]
  | jp | jpV0 => cases h; rw [State.jump_frame]
  | ldB | storeRegs => cases h; rw [State.storeBlock_eq]
  | loadRegs => cases h; rw [State.loadBlock_eq]
  | addI => cases h; rw [State.reportIf_eq]; rfl
  | ret =>
    rw [exec, execRet] at h
    split at h <;> cases h
    · rfl
    · rw [State.jump_frame]; rfl
  | call =>
    rw [exec, execCall] at h
    split at h <;> cases h
    · rfl
    · rw [State.jump_frame, State.reportIf_eq]; rfl
  | ldVxK =>
    rw [exec, execLdVxK] at h
    split at h <;> cases h <;> rfl

theorem exec_fbDirty (h : exec i s = .next e) : e.fbDirty = s.fbDirty := by
  cases hi : i.marksFbChanged
  · rw [exec_eq_of_not_marksFbChanged hi h]
  · rw [exec_eq_of_marksFbChanged hi h]

theorem exec_fbChanged (h : exec i s = .next e) :
    e.out.fbChanged = (i.marksFbChanged || s.out.fbChanged) := by
  cases hi : i.marksFbChanged
  · rw [exec_eq_of_not_marksFbChanged hi h]; rfl
  · rw [exec_eq_of_marksFbChanged hi h]; rfl

theorem exec_halted_of_marksFbChanged (hi : i.marksFbChanged = true) (h : exec i s = .next e) :
    e.halted = s.halted := by
  rw [exec_eq_of_marksFbChanged hi h]

/-! ### The later stages -/

theorem State.advanceStage_frame (s : State) :
    s.advanceStage = { s with
      pc := s.advanceStage.pc, out := { s.out with diag := s.advanceStage.out.diag } } := by
  rw [State.advanceStage_eq]
  split
  · rfl
  · rw [State.setPc_eq]

@[simp] theorem State.advanceStage_fbDirty (s : State) : s.advanceStage.fbDirty = s.fbDirty := by
  rw [State.advanceStage_frame]

@[simp] theorem State.advanceStage_fbChanged (s : State) : s.advanceStage.out.fbChanged = s.out.fbChanged := by
  rw [State.advanceStage_frame]

/-- No stage after the execute stage sets or clears `fb_changed`. -/
theorem State.finishCycle_fbChanged (s : State) : s.finishCycle.out.fbChanged = s.out.fbChanged := by
  cases hh : s.halted
  · simp [State.finishCycle_running s hh, State.timerTail_eq]
  · rw [State.finishCycle_halted s hh]

/-- `FB_DIRTY` takes up `fb_changed`, unless a stack fault ended the cycle (R127, R130). -/
theorem State.finishCycle_fbDirty (s : State) :
    s.finishCycle.fbDirty = (s.fbDirty || (!s.halted && s.out.fbChanged)) := by
  cases hh : s.halted
  · simp [State.finishCycle_running s hh, State.timerTail_eq]
  · simp [State.finishCycle_halted s hh]

/-- Where no stack fault goes with a mark, `FB_DIRTY` takes up the mark in every case. -/
theorem State.finishCycle_fbDirty_of_running (hh : s.out.fbChanged = true → s.halted = false) :
    s.finishCycle.fbDirty = (s.fbDirty || s.out.fbChanged) := by
  rw [State.finishCycle_fbDirty]
  cases hc : s.out.fbChanged
  · simp
  · simp [hh hc]

theorem State.beginCycle_fbDirty (s : State) : s.beginCycle.fbDirty = s.fbDirty := by rw [State.beginCycle_eq]
theorem State.beginCycle_halted (s : State) : s.beginCycle.halted = s.halted := by rw [State.beginCycle_eq]
theorem State.beginCycle_fbChanged (s : State) : s.beginCycle.out.fbChanged = false := by
  rw [State.beginCycle_eq]; rfl

/-- The cycle of a recognized instruction: `fb_changed` and `FB_DIRTY` (R48, R127). -/
theorem finishCycle_exec_fbFlags (hh : s.halted = false) (h : exec i s.beginCycle = .next e) :
    e.finishCycle.out.fbChanged = i.marksFbChanged ∧
      e.finishCycle.fbDirty = (s.fbDirty || i.marksFbChanged) := by
  have hmark : e.out.fbChanged = i.marksFbChanged := by
    rw [exec_fbChanged h, State.beginCycle_fbChanged, Bool.or_false]
  have hrun : e.out.fbChanged = true → e.halted = false := fun hc => by
    rw [exec_halted_of_marksFbChanged (hmark ▸ hc) h, State.beginCycle_halted, hh]
  rw [State.finishCycle_fbChanged, State.finishCycle_fbDirty_of_running hrun, hmark, exec_fbDirty h,
    State.beginCycle_fbDirty]
  exact ⟨rfl, rfl⟩

/-- Settles O19: the record starts at 0, the execute stage marks it for CLS and DRW alone, neither of which ends the
cycle early, and stage 6 carries the mark to `FB_DIRTY`. -/
theorem fbChangedExactlyForClsAndDrw : Obligations.FbChangedExactlyForClsAndDrw := by
  intro s t h
  obtain ⟨hh, rfl⟩ | ⟨hh, i, e, hd, he, rfl⟩ | ⟨hh, e, hd, rfl⟩ := step_cases h
  · simp [hh, CycleOut.none]
  · obtain ⟨hchanged, hdirty⟩ := finishCycle_exec_fbFlags hh he
    simp [hchanged, hdirty, hh, hd, Instr.marksFbChanged_iff]
  · have hmark : s.beginCycle.executeUnrecognized.out.fbChanged = false := s.beginCycle_fbChanged
    have hkept : s.beginCycle.executeUnrecognized.fbDirty = s.fbDirty := s.beginCycle_fbDirty
    simp [State.finishCycle_fbChanged, State.finishCycle_fbDirty, hmark, hkept, hd]

/-! ### The key operations -/

theorem State.setKey_of_lt (s : State) {k : Nat} (hk : k < 16) (held : Bool) :
    s.setKey k held = (.done, { s with keys := s.keys.set k held }) := dif_pos hk

theorem State.setKey_of_le (s : State) {k : Nat} (hk : 16 ≤ k) (held : Bool) :
    s.setKey k held = (.noSuchKey, s) := dif_neg (Nat.not_lt.2 hk)

/-- `key_press` and `key_release` are one operation on the key's value (R50). -/
theorem operate_key (k : Nat) (held : Bool) (s : State) :
    operate (if held then .keyPress k else .keyRelease k) s = .next (s.setKey k held) := by
  cases held <;> rfl

/-- Settles O59, by the two cases of `State.setKey`. -/
theorem keyOperationsSetOneKey : Obligations.KeyOperationsSetOneKey := by
  intro k s held
  rw [operate_key]
  constructor
  · intro hk
    refine ⟨_, congrArg _ (s.setKey_of_lt hk held), rfl, fun j => ?_⟩
    simp [Vector.getElem_set, eq_comm]
  · intro hk
    rw [s.setKey_of_le hk]

/-! ### The reads -/

/-- A program counts as loaded where one of the two bytes at `PC_START` is not 0 (R353). -/
theorem State.hasLoadedProgram_iff (s : State) :
    s.hasLoadedProgram = true ↔ s.byte 0x200 ≠ 0 ∨ s.byte 0x201 ≠ 0 := by
  simp [State.hasLoadedProgram, pcStart]

/-- Settles O60: each read's answer and next state are those of its arm of `operate`, and a second
`read_framebuffer` meets the cleared `FB_DIRTY`. -/
theorem readsAnswerAndChangeOnlyFbDirty : Obligations.ReadsAnswerAndChangeOnlyFbDirty := by
  intro s
  refine ⟨rfl, ?_, ⟨s.hasLoadedProgram, rfl⟩, rfl, ?_⟩
  · intro b t h
    cases h
    exact ⟨rfl, s.hasLoadedProgram_iff⟩
  · intro t h
    cases h
    rfl

end Machine

end Sys2Proof
end

section
/-!
PROOFS. What the fetch reads and reports; with it O8.
-/
namespace Sys2Proof

/-- The high byte counts 256 (R64). -/
theorem wordOfBytes_toNat (hi lo : Byte) : (wordOfBytes hi lo).toNat = hi.toNat * 256 + lo.toNat := by
  rw [wordOfBytes, BitVec.toNat_append, ← Nat.shiftLeft_add_eq_or_of_lt lo.isLt, Nat.shiftLeft_eq]

namespace Machine

/-- `MEM` is read at the reduced address (R61). -/
theorem State.byte_mod (s : State) (a : Nat) : s.byte (a % 4096) = s.byte a :=
  congrArg (Memory.read s.config.font s.mem) (reduceAddr_idem a)

/-- The second byte of the fetch lies past memory exactly where `PC` is its last address (R64). -/
theorem pcLeavesMemory_succ_iff (a : Addr) : pcLeavesMemory (a.toNat + 1) = true ↔ a = 0xFFF := by
  have hmax : (0xFFF : Addr).toNat = 4095 := rfl
  have hlt : a.toNat < 4096 := a.isLt
  rw [pcLeavesMemory, decide_eq_true_iff, ← BitVec.toNat_inj, hmax, memSize]
  omega

/-- Settles O8: the fetched word by the bytes' place values, the diagnostic by the one `PC` whose second byte lies past
memory. -/
theorem fetchIsBigEndianAndWraps : Obligations.FetchIsBigEndianAndWraps := by
  intro s
  constructor
  · rw [State.fetchWord, wordOfBytes_toNat, State.byte_mod]
  · rw [State.noteFetch_eq]
    simp only [diagAfter, pcLeavesMemory_succ_iff, Diag.mask]

end Machine

end Sys2Proof
end

section
/-!
PROOFS. What the decoder answers for every word of the opcode map, what a cycle leaves in the timers, and what the
cycles of a halted block leave; with them O4, O17 and O11.
-/
namespace Sys2Proof

/-! ### The words of the opcode map -/

section Words

variable {x y : Reg} {n : Nibble} {nn : Byte} {nnn : Addr}

/-- The two words that the 0-group takes out of SYS are the two that are no well-formed SYS (R98). -/
theorem Instr.wellFormed_sys (hcls : packA 0x0#4 nnn ≠ 0x00E0#16) (hret : packA 0x0#4 nnn ≠ 0x00EE#16) :
    (Instr.sys nnn).wellFormed = true := by
  have h0 : nnn ≠ 0x0E0#12 := by rintro rfl; exact hcls (by decide)
  have h1 : nnn ≠ 0x0EE#12 := by rintro rfl; exact hret (by decide)
  simp [Instr.wellFormed, h0, h1]

theorem decode_group5_of_ne (h : n ≠ 0x0#4) : decode (packXYN 0x5#4 x y n) = .error (.group5 n) := by
  simp [decode, h]

theorem decode_group9_of_ne (h : n ≠ 0x0#4) : decode (packXYN 0x9#4 x y n) = .error (.group9 n) := by
  simp [decode, h]

/-- The sub-opcodes of the 8-group are 0 to 7 and E (R99). -/
theorem decode_group8_of_gt (h7 : 0x7 < n.toNat) (hE : n ≠ 0xE#4) :
    decode (packXYN 0x8#4 x y n) = .error (.group8 n) := by
  have hgroup : decode (packXYN 0x8#4 x y n) = decodeGroup8 (packXYN 0x8#4 x y n) := by simp [decode]
  rw [hgroup, decodeGroup8, fieldN_packXYN]
  split
  case h_10 => rfl
  case h_9 => exact absurd rfl hE
  all_goals exact absurd h7 (by decide)

/-- The function codes of the E-group are 9E and A1 (R100). -/
theorem decode_groupE_of_ne (h9E : nn ≠ 0x9E#8) (hA1 : nn ≠ 0xA1#8) :
    decode (packXK 0xE#4 x nn) = .error (.groupE nn) := by
  have hgroup : decode (packXK 0xE#4 x nn) = decodeGroupE (packXK 0xE#4 x nn) := by simp [decode]
  rw [hgroup, decodeGroupE, fieldNN_packXK]
  split
  · exact absurd rfl h9E
  · exact absurd rfl hA1
  · rfl

/-- The function codes of the F-group are these nine (R101). -/
theorem decode_groupF_of_notMem (h : nn.toNat ∉ [0x07, 0x0A, 0x15, 0x18, 0x1E, 0x29, 0x33, 0x55, 0x65]) :
    decode (packXK 0xF#4 x nn) = .error (.groupF nn) := by
  have hgroup : decode (packXK 0xF#4 x nn) = decodeGroupF (packXK 0xF#4 x nn) := by simp [decode]
  rw [hgroup, decodeGroupF, fieldNN_packXK]
  split
  case h_10 => rfl
  all_goals exact absurd (by decide) h

end Words

open Laws

/-- Settles O4: a word of the map is the encoding of its instruction, which the decoder reads back; the words beside
the map are the rejected rest of their group. -/
theorem decodeFollowsTheOpcodeMap : Obligations.DecodeFollowsTheOpcodeMap := by
  intro x y n nn nnn
  exact ⟨EncodeDecode.cls rfl, EncodeDecode.ret rfl,
    fun hcls hret => EncodeDecode.sys nnn (Instr.wellFormed_sys hcls hret),
    EncodeDecode.jp nnn rfl, EncodeDecode.call nnn rfl, EncodeDecode.seImm x nn rfl, EncodeDecode.sneImm x nn rfl,
    EncodeDecode.seReg x y rfl, decode_group5_of_ne, EncodeDecode.ldImm x nn rfl, EncodeDecode.addImm x nn rfl,
    EncodeDecode.ldReg x y rfl, EncodeDecode.orReg x y rfl, EncodeDecode.andReg x y rfl,
    EncodeDecode.xorReg x y rfl, EncodeDecode.addReg x y rfl, EncodeDecode.subReg x y rfl,
    EncodeDecode.shr x y rfl, EncodeDecode.subnReg x y rfl, EncodeDecode.shl x y rfl, decode_group8_of_gt,
    EncodeDecode.sneReg x y rfl, decode_group9_of_ne, EncodeDecode.ldI nnn rfl, EncodeDecode.jpV0 nnn rfl,
    EncodeDecode.rnd x nn rfl, EncodeDecode.drw x y n rfl, EncodeDecode.skp x rfl, EncodeDecode.sknp x rfl,
    decode_groupE_of_ne, EncodeDecode.ldVxDt x rfl, EncodeDecode.ldVxK x rfl, EncodeDecode.ldDtVx x rfl,
    EncodeDecode.ldStVx x rfl, EncodeDecode.addI x rfl, EncodeDecode.ldF x rfl, EncodeDecode.ldB x rfl,
    EncodeDecode.storeRegs x rfl, EncodeDecode.loadRegs x rfl, decode_groupF_of_notMem⟩

namespace Machine

/-! ### The timers -/

/-- The value the execute stage of a decoded word leaves in `DT`: a register's for LD DT, else the old one (R275). -/
def delayLeft (d : Except Unrecognized Instr) (s : State) : Byte :=
  match d with
  | .ok (.ldDtVx x) => s.reg x
  | _ => s.dt

/-- The value the execute stage of a decoded word leaves in `ST`: a register's for LD ST, else the old one (R276). -/
def soundLeft (d : Except Unrecognized Instr) (s : State) : Byte :=
  match d with
  | .ok (.ldStVx x) => s.reg x
  | _ => s.st

variable {i : Instr} {s e t : State}

theorem exec_timers (h : exec i s = .next e) : e.dt = delayLeft (.ok i) s ∧ e.st = soundLeft (.ok i) s := by
  cases i with
  | cls | drw => rw [exec_eq_of_marksFbChanged rfl h]; exact ⟨rfl, rfl⟩
  | ldImm | addImm | ldReg | orReg | andReg | xorReg | addReg | subReg | shr | subnReg | shl | rnd | ldI | ldF
  | ldVxDt | ldDtVx | ldStVx | sys => cases h; exact ⟨rfl, rfl⟩
  | seImm | sneImm | seReg | sneReg | skp | sknp => cases h; rw [State.skipIf_frame]; exact ⟨rfl, rfl⟩
  | jp | jpV0 => cases h; rw [State.jump_frame]; exact ⟨rfl, rfl⟩
  | ldB | storeRegs => cases h; rw [State.storeBlock_eq]; exact ⟨rfl, rfl⟩
  | loadRegs => cases h; rw [State.loadBlock_eq]; exact ⟨rfl, rfl⟩
  | addI => cases h; rw [State.reportIf_eq]; exact ⟨rfl, rfl⟩
  | ret =>
    rw [exec, execRet] at h
    split at h <;> cases h
    · exact ⟨rfl, rfl⟩
    · rw [State.jump_frame]; exact ⟨rfl, rfl⟩
  | call =>
    rw [exec, execCall] at h
    split at h <;> cases h
    · exact ⟨rfl, rfl⟩
    · rw [State.jump_frame, State.reportIf_eq]; exact ⟨rfl, rfl⟩
  | ldVxK =>
    rw [exec, execLdVxK] at h
    split at h <;> cases h <;> exact ⟨rfl, rfl⟩

/-- No instruction sets `sound_tick`; the timer tail does (R49). -/
theorem exec_soundTick (h : exec i s = .next e) : e.out.soundTick = s.out.soundTick := by
  cases hi : i.marksFbChanged
  · rw [exec_eq_of_not_marksFbChanged hi h]
  · rw [exec_eq_of_marksFbChanged hi h]

/-- The start of a cycle touches neither the registers nor the timers. -/
theorem timersLeft_beginCycle (d : Except Unrecognized Instr) (s : State) :
    delayLeft d s.beginCycle = delayLeft d s ∧ soundLeft d s.beginCycle = soundLeft d s := by
  rw [State.beginCycle_eq]
  exact ⟨rfl, rfl⟩

/-- The cycle of a running block ends with the later stages, on a state whose timers the execute stage left. -/
theorem step_executed (hh : s.halted = false) (h : step s = .next t) :
    ∃ e : State, t = e.finishCycle ∧ e.dt = delayLeft (decode s.fetchWord) s ∧
      e.st = soundLeft (decode s.fetchWord) s ∧ e.out.soundTick = false := by
  have htick : s.beginCycle.out.soundTick = false := by rw [State.beginCycle_eq]; rfl
  obtain ⟨hd, hs⟩ := timersLeft_beginCycle (decode s.fetchWord) s
  obtain ⟨hh', -⟩ | ⟨-, i, e, hi, he, rfl⟩ | ⟨-, err, herr, rfl⟩ := step_cases h
  · simp [hh] at hh'
  · obtain ⟨hdt, hst⟩ := exec_timers he
    rw [← hd, ← hs, hi]
    exact ⟨e, rfl, hdt, hst, (exec_soundTick he).trans htick⟩
  · rw [← hd, ← hs, herr]
    exact ⟨_, rfl, rfl, rfl, htick⟩

theorem State.halted_finishCycle (e : State) : e.finishCycle.halted = e.halted := by rw [State.finishCycle_eq]

/-- One tick of a timer takes 1 from it, and nothing from 0 (R126). -/
theorem tick_toNat (b : Byte) : (if b = 0 then 0 else b - 1).toNat = b.toNat - 1 := by
  split
  · subst b; rfl
  · bv_omega

/-- What the later stages of a cycle without a stack fault do to the timers and `sound_tick` (R126). -/
theorem State.finishCycle_timers (hh : e.halted = false) :
    e.finishCycle.dt.toNat = e.dt.toNat - 1 ∧ e.finishCycle.st.toNat = e.st.toNat - 1 ∧
      e.finishCycle.out.soundTick = (e.out.soundTick || decide (e.st ≠ 0)) := by
  rw [State.finishCycle_running e hh, State.timerTail_eq, State.advanceStage_frame]
  exact ⟨tick_toNat e.dt, tick_toNat e.st, rfl⟩

/-- Settles O17: the timer tail ticks what the execute stage left. -/
theorem timersCountEveryCycle : Obligations.TimersCountEveryCycle := by
  intro s t hs h ht
  obtain ⟨e, rfl, hdt, hst, htick⟩ := step_executed hs h
  rw [State.halted_finishCycle] at ht
  obtain ⟨hdelay, hsound, hsoundTick⟩ := State.finishCycle_timers ht
  rw [hdt] at hdelay
  rw [hst] at hsound
  rw [htick, hst, Bool.false_or] at hsoundTick
  refine ⟨hdelay, hsound, ?_⟩
  rw [hsoundTick, decide_eq_true_iff]
  exact ((BitVec.toNat_pos _).trans (BitVec.pos_iff_ne_zero _)).symm

/-! ### The halted block -/

theorem run_halted (n : Nat) (hs : s.halted = true) : Sys2Proof.core.run (n + 1) s = .next s.idleCycle := by
  induction n generalizing s with
  | zero => exact core_run_succ 0 (step_halted hs)
  | succ n ih =>
    have hidle : s.idleCycle.halted = true := hs
    rw [core_run_succ (n + 1) (step_halted hs), ih hidle]
    rfl

/-- Settles O11: the cycle of a halted block leaves it halted, and a second one changes nothing more. -/
theorem haltedBlockDoesNothing : Obligations.HaltedBlockDoesNothing := fun n _ hs => run_halted n hs

end Machine

end Sys2Proof
end

section
/-!
PROOFS. What a computed program counter reports, what a push leaves on the call stack, what CALL and RET leave in either
case of the stack, and when a skip follows its condition; with them O31, O34 and O32.
-/
namespace Sys2Proof.Machine

/-- PC_WRAP is reported exactly from 4096 on (R26). -/
theorem diagAfter_pcWrap (m : Byte) (t : Nat) :
    diagAfter m (pcLeavesMemory t) .pcWrap = if 4096 ≤ t then m ||| 0x04 else m := by
  simp only [diagAfter, pcLeavesMemory, memSize, Diag.mask, decide_eq_true_eq]

variable {i : Instr} {s : State}

/-! ### The call stack -/

theorem State.stackEntry_push_self (h : s.sp < s.stack.length) (ret : Addr) :
    (s.push ret).stackEntry s.sp = ret := by
  simp [State.stackEntry, h]

/-- A push leaves every other entry (R30). -/
theorem State.stackEntry_push_ne {k : Nat} (h : k ≠ s.sp) (ret : Addr) :
    (s.push ret).stackEntry k = s.stackEntry k := by
  simp [State.stackEntry, List.getElem?_set_ne h.symm]

/-- CALL with room on the stack (R154). -/
theorem exec_call_of_lt (nnn : Addr) (h : s.sp < s.config.stackDepth) :
    exec (.call nnn) s = .next
      { s.push (BitVec.ofNat 12 (s.pc.toNat + 2)) with
        pc := nnn, noAdvance := true
        out := { s.out with diag := if 4096 ≤ s.pc.toNat + 2 then s.out.diag ||| 0x04 else s.out.diag } } := by
  rw [exec, execCall, if_neg h.ne]
  simp only [State.reportIf_eq, State.jump_addr, diagAfter_pcWrap]
  rfl

/-- CALL on a full stack (R154, R310). -/
theorem exec_call_of_eq (nnn : Addr) (h : s.sp = s.config.stackDepth) :
    exec (.call nnn) s = .next (s.raiseStackFault .overflow) := by
  rw [exec, execCall, if_pos h]

/-- RET with an entry on the stack (R152). -/
theorem exec_ret_of_pos (h : 0 < s.sp) :
    exec .ret s = .next { s.pop with pc := s.stackEntry (s.sp - 1), noAdvance := true } := by
  rw [exec, execRet, if_neg h.ne', State.jump_addr]

/-- RET on an empty stack (R152, R310). -/
theorem exec_ret_of_zero (h : s.sp = 0) : exec .ret s = .next (s.raiseStackFault .underflow) := by
  rw [exec, execRet, if_pos h]

/-- Settles O31: below its depth the stack takes the return address at `SP` and keeps its other entries; at its depth
CALL is the stack fault. -/
theorem callPushesTheNextAddress : Obligations.CallPushesTheNextAddress := by
  intro nnn s ⟨hlen, _⟩
  constructor
  · intro hroom
    have hlt : s.sp < s.stack.length := hroom.trans_eq hlen.symm
    refine ⟨_, exec_call_of_lt nnn hroom, rfl, List.length_set, ?_, fun k hk => State.stackEntry_push_ne hk _, rfl⟩
    exact (congrArg BitVec.toNat (State.stackEntry_push_self hlt _)).trans (BitVec.toNat_ofNat ..)
  · exact exec_call_of_eq nnn

/-- Settles O32, by the two cases of the stack. -/
theorem retPopsIntoPc : Obligations.RetPopsIntoPc := fun _ => ⟨exec_ret_of_pos, exec_ret_of_zero⟩

/-! ### Skips -/

/-- An instruction whose meaning is a conditional skip skips exactly where the condition it tests holds (R151). -/
theorem skipsExactlyIf_of_exec {c : Bool} {p : Prop} (hexec : exec i s = .next (s.skipIf c))
    (hc : c = true ↔ p) : SkipsExactlyIf i p s := by
  rw [State.skipIf_eq] at hexec
  constructor
  · intro hp
    rw [hexec, if_neg (mt hc.1 hp)]
  · intro hp
    rw [if_pos (hc.2 hp), State.setPc_eq, diagAfter_pcWrap] at hexec
    exact ⟨_, hexec, BitVec.toNat_ofNat .., rfl⟩

/-- Settles O34: each of the four skips on the decision of its own comparison. -/
theorem compareSkips : Obligations.CompareSkips := fun _ _ _ _ =>
  ⟨skipsExactlyIf_of_exec rfl decide_eq_true_iff, skipsExactlyIf_of_exec rfl decide_eq_true_iff,
    skipsExactlyIf_of_exec rfl decide_eq_true_iff, skipsExactlyIf_of_exec rfl decide_eq_true_iff⟩

end Sys2Proof.Machine
end

section
/-!
PROOFS. What a write of one register, and one with a flag, leaves of the state, and what the flags are as numbers; with
them O23, O24, O25, O26, O21 and O22.
-/
namespace Sys2Proof.Machine

variable {i : Instr} {s : State} {x : Reg} {a b : Byte} {c : Bool}

/-! ### One register -/

/-- An instruction whose meaning is one register write leaves the value there and nothing else changed. -/
theorem exec_of_setReg (h : exec i s = .next (s.setReg x b)) :
    ∃ t, exec i s = .next t ∧ t.reg x = b ∧ (∀ j, j ≠ x → t.reg j = s.reg j) ∧ t = { s with v := t.v } :=
  ⟨_, h, s.reg_setReg_self x b, fun _ hj => s.reg_setReg_ne hj b, s.setReg_eq x b⟩

/-- Settles O21: each form is one register write, and the addition of bytes is modulo 256. -/
theorem immediateFormsWriteOneRegister : Obligations.ImmediateFormsWriteOneRegister := by
  intro x nn s
  refine ⟨exec_of_setReg rfl, ?_⟩
  obtain ⟨t, ht, hx, hframe⟩ := exec_of_setReg (rfl : exec (.addImm x nn) s = _)
  exact ⟨t, ht, by rw [hx, BitVec.toNat_add], hframe⟩

/-- An instruction whose meaning is one register write, with the bits of what it writes given one by one. -/
theorem exec_bits_of_setReg {f : Nat → Bool} (h : exec i s = .next (s.setReg x b)) (hb : ∀ k, b.getLsbD k = f k) :
    ∃ t, exec i s = .next t ∧ (∀ k, (t.reg x).getLsbD k = f k) ∧ (∀ j, j ≠ x → t.reg j = s.reg j) ∧
      t = { s with v := t.v } := by
  obtain ⟨t, ht, hx, hframe⟩ := exec_of_setReg h
  exact ⟨t, ht, fun k => by rw [hx, hb], hframe⟩

/-- Settles O22: each of the four is one register write, and the logic operations act on every bit alone. -/
theorem assignAndLogicWriteOneRegister : Obligations.AssignAndLogicWriteOneRegister := fun _ _ _ =>
  ⟨exec_of_setReg rfl, exec_bits_of_setReg rfl fun _ => BitVec.getLsbD_or,
    exec_bits_of_setReg rfl fun _ => BitVec.getLsbD_and, exec_bits_of_setReg rfl fun _ => BitVec.getLsbD_xor⟩

/-! ### A register and the flag -/

/-- An instruction whose meaning writes a register and then the flag (R180) leaves the flag in `VF`, the result in
any other destination, and nothing else changed. -/
theorem exec_of_setRegFlag (h : exec i s = .next (s.setRegFlag x b c)) :
    ∃ t, exec i s = .next t ∧ t.reg 15 = flagByte c ∧ (x ≠ 15 → t.reg x = b) ∧
      (∀ j, j ≠ x → j ≠ 15 → t.reg j = s.reg j) ∧ t = { s with v := t.v } := by
  refine ⟨_, h, ?_, fun hx => ?_, fun j hj hvf => ?_, s.setRegFlag_eq x b c⟩
  · rw [State.reg_setRegFlag, if_pos rfl]
  · rw [State.reg_setRegFlag, if_neg hx, if_pos rfl]
  · rw [State.reg_setRegFlag, if_neg hvf, if_neg hj]

theorem flagByte_carryOut (a b : Byte) :
    (flagByte (carryOut a b)).toNat = if 255 < a.toNat + b.toNat then 1 else 0 := by
  simp only [flagByte_toNat, carryOut, decide_eq_true_eq]

/-- Settles O23: the flag is the carry, and the addition of bytes is modulo 256. -/
theorem addSetsSumAndCarry : Obligations.AddSetsSumAndCarry := by
  intro x y s
  obtain ⟨t, ht, hflag, hdest, hframe⟩ := exec_of_setRegFlag (rfl : exec (.addReg x y) s = _)
  exact ⟨t, ht, by rw [hflag, flagByte_carryOut], fun hx => by rw [hdest hx, BitVec.toNat_add], hframe⟩

theorem flagByte_noBorrow (a b : Byte) :
    (flagByte (noBorrow a b)).toNat = if b.toNat ≤ a.toNat then 1 else 0 := by
  simp only [flagByte_toNat, noBorrow, decide_eq_true_eq]

/-- The difference of bytes is the difference of the integers modulo 256. -/
theorem toNat_sub_byte (a b : Byte) : ((a - b).toNat : Int) = (a.toNat - b.toNat : Int) % 256 := by
  rw [BitVec.toNat_sub]
  omega

/-- An instruction whose meaning is a subtraction with the no-borrow flag, whichever operand is the first. -/
theorem exec_of_subtraction (h : exec i s = .next (s.setRegFlag x (a - b) (noBorrow a b))) :
    ∃ t, exec i s = .next t ∧ (t.reg 15).toNat = (if b.toNat ≤ a.toNat then 1 else 0) ∧
      (x ≠ 15 → ((t.reg x).toNat : Int) = (a.toNat - b.toNat : Int) % 256) ∧
      (∀ j, j ≠ x → j ≠ 15 → t.reg j = s.reg j) ∧ t = { s with v := t.v } := by
  obtain ⟨t, ht, hflag, hdest, hframe⟩ := exec_of_setRegFlag h
  exact ⟨t, ht, by rw [hflag, flagByte_noBorrow], fun hx => by rw [hdest hx, toNat_sub_byte], hframe⟩

/-- Settles O24: SUB and SUBN are one subtraction with its operands exchanged. -/
theorem subtractSetsDifferenceAndNoBorrow : Obligations.SubtractSetsDifferenceAndNoBorrow := fun _ _ _ =>
  ⟨exec_of_subtraction rfl, exec_of_subtraction rfl⟩

theorem flagByte_shiftedOutRight (a : Byte) : (flagByte (shiftedOutRight a)).toNat = a.toNat % 2 := by
  rw [flagByte_toNat, shiftedOutRight, BitVec.getLsbD, Nat.testBit_zero]
  simp only [decide_eq_true_eq]
  split <;> omega

/-- The top bit of a byte is its number divided by 128. -/
theorem flagByte_shiftedOutLeft (a : Byte) : (flagByte (shiftedOutLeft a)).toNat = a.toNat / 128 := by
  have hlt : a.toNat < 256 := a.isLt
  rw [flagByte_toNat, shiftedOutLeft, BitVec.getLsbD, Nat.testBit_eq_decide_div_mod_eq]
  simp only [decide_eq_true_eq]
  split <;> omega

/-- Settles O25: the bit shifted out is the remainder of the half, or the carry of the double. -/
theorem shiftsMoveVxAndKeepTheBitShiftedOut : Obligations.ShiftsMoveVxAndKeepTheBitShiftedOut := by
  intro x y s
  constructor
  · obtain ⟨t, ht, hflag, hdest, hframe⟩ := exec_of_setRegFlag (rfl : exec (.shr x y) s = _)
    refine ⟨t, ht, by rw [hflag, flagByte_shiftedOutRight], fun hx => ?_, hframe⟩
    rw [hdest hx, BitVec.toNat_ushiftRight, Nat.shiftRight_one]
  · obtain ⟨t, ht, hflag, hdest, hframe⟩ := exec_of_setRegFlag (rfl : exec (.shl x y) s = _)
    refine ⟨t, ht, by rw [hflag, flagByte_shiftedOutLeft], fun hx => ?_, hframe⟩
    rw [hdest hx, BitVec.toNat_shiftLeft, Nat.shiftLeft_eq, Nat.pow_one]

/-! ### The same register twice -/

/-- Writing back what a register holds changes nothing. -/
theorem State.setReg_reg (s : State) (x : Reg) : s.setReg x (s.reg x) = s := by
  have hv : s.v.set x (s.reg x) = s.v := Vector.set_getElem_self x.isLt
  rw [State.setReg, hv]

theorem exec_of_setReg_held (h : exec i s = .next (s.setReg x b)) (hb : b = s.reg x) : exec i s = .next s := by
  rw [h, hb, State.setReg_reg]

/-- A subtraction of a value from itself gives 0 and no borrow. -/
theorem exec_of_self_subtraction (h : exec i s = .next (s.setRegFlag x (a - a) (noBorrow a a))) :
    ∃ t, exec i s = .next t ∧ t.reg 15 = 1 ∧ (x ≠ 15 → t.reg x = 0) := by
  obtain ⟨t, ht, hflag, hdest, _⟩ := exec_of_setRegFlag h
  have hborrow : noBorrow a a = true := decide_eq_true le_rfl
  exact ⟨t, ht, by rw [hflag, hborrow]; rfl, fun hx => (hdest hx).trans (BitVec.sub_self a)⟩

/-- Doubling a byte carries exactly its top bit. -/
theorem carry_double (a : Byte) : (if 255 < a.toNat + a.toNat then 1 else 0) = a.toNat / 128 := by
  have hlt : a.toNat < 256 := a.isLt
  split <;> omega

/-- Settles O26: LD, OR and AND write back the operand, XOR and the subtractions cancel it, ADD (O23) doubles it. -/
theorem sameRegisterAsBothOperands : Obligations.SameRegisterAsBothOperands := by
  intro x s
  refine ⟨exec_of_setReg_held rfl rfl, exec_of_setReg_held rfl BitVec.or_self, exec_of_setReg_held rfl BitVec.and_self,
    ?_, exec_of_self_subtraction rfl, exec_of_self_subtraction rfl, ?_⟩
  · exact ⟨_, rfl, (s.reg_setReg_self x _).trans BitVec.xor_self⟩
  · obtain ⟨t, ht, hflag, hdest, _⟩ := addSetsSumAndCarry x x s
    exact ⟨t, ht, hflag.trans (carry_double _), fun hx => by rw [hdest hx, Nat.two_mul]⟩

end Sys2Proof.Machine
end

section
/-!
PROOFS. What a write of `I`, and a block load, leave of the state and report; with them O36 and O39.
-/
namespace Sys2Proof.Machine

variable {i : Instr} {s : State} {w : Word}

/-! ### The index register -/

/-- An instruction whose meaning is one write of `I` leaves the value there and nothing else changed. -/
theorem exec_of_setI (h : exec i s = .next (s.setI w)) :
    ∃ t, exec i s = .next t ∧ t.i.toNat = w.toNat ∧ t = { s with i := t.i } := ⟨_, h, rfl, rfl⟩

/-- The address of a glyph fits in `I` for every byte (R223). -/
theorem fontAddr_toNat (d : Byte) : (fontAddr d).toNat = d.toNat * 5 := by
  have hlt : d.toNat < 256 := d.isLt
  rw [fontAddr, BitVec.toNat_ofNat]
  omega

/-- I_RANGE is reported exactly for an `I` above 0xFFF (R222). -/
theorem diagAfter_iRange (m : Byte) (w : Word) :
    diagAfter m (decide (0xFFF < w.toNat)) .iRange = if 0xFFF < w.toNat then m ||| 0x10 else m := by
  simp only [diagAfter, Diag.mask, decide_eq_true_eq]

/-- Settles O36: each form writes `I` once. Zero-extension keeps the number, the sum is taken modulo 65536 and reported
as it then stands in `I`, and the font address does not overflow. -/
theorem indexRegisterForms : Obligations.IndexRegisterForms := by
  intro x nnn s
  refine ⟨?_, ?_, ?_⟩
  · obtain ⟨t, ht, hi, hframe⟩ := exec_of_setI (rfl : exec (.ldI nnn) s = _)
    exact ⟨t, ht, hi.trans (BitVec.toNat_setWidth_of_le (by decide)), hframe⟩
  · refine ⟨_, rfl, ?_⟩
    rw [State.reportIf_eq, diagAfter_iRange]
    exact ⟨BitVec.toNat_ofNat .., rfl⟩
  · obtain ⟨t, ht, hi, hframe⟩ := exec_of_setI (rfl : exec (.ldF x) s = _)
    exact ⟨t, ht, hi.trans (fontAddr_toNat _), hframe⟩

/-! ### Block loads -/

/-- A block of `n + 1` bytes reports ADDR_WRAP exactly where its last address is 4096 or more (R62). -/
theorem diagAfter_block (s : State) (n : Nat) (m : Byte) :
    diagAfter m (decide (0 < n + 1) && addrLeavesMemory (s.indexAddr (n + 1 - 1))) .addrWrap =
      if 4096 ≤ s.i.toNat + n then m ||| 0x08 else m := by
  simp only [diagAfter, addrLeavesMemory, State.indexAddr, memSize, Diag.mask, Nat.zero_lt_succ, decide_true,
    Bool.true_and, Nat.add_sub_cancel, decide_eq_true_eq]

/-- A load of `n + 1` bytes changes registers, and reports what its last address does. -/
theorem State.loadBlock_succ_eq (s : State) (n : Nat) :
    s.loadBlock (n + 1) = { s with
      v := (s.loadBlock (n + 1)).v
      out := { s.out with diag := if 4096 ≤ s.i.toNat + n then s.out.diag ||| 0x08 else s.out.diag } } := by
  rw [← diagAfter_block, ← State.loadBlock_diag]
  exact s.loadBlock_eq (n + 1)

/-- Settles O39: the block is V0 to Vx, so a register is loaded exactly where it is not above `x`. -/
theorem registerLoadReadsTheBlock : Obligations.RegisterLoadReadsTheBlock := by
  intro x s
  have hreg := s.loadBlock_reg (x.val + 1) x.isLt
  refine ⟨_, rfl, fun k hk => ?_, fun k hk => ?_, s.loadBlock_succ_eq x.val⟩
  · rw [hreg, if_pos (Nat.lt_succ_of_le hk), State.byte_mod, State.indexAddr]
  · rw [hreg, if_neg (Nat.not_lt.2 hk)]

end Sys2Proof.Machine
end

section
/-!
PROOFS. What a draw leaves in the registers and the grid, where its collisions lie, and what it reports; with them O42
and O41.
-/
namespace Sys2Proof.Machine

/-! ### Clear-screen -/

/-- Settles O41: CLS is one write of the whole grid, which is clear at every pixel. -/
theorem clsTurnsEveryPixelOff : Obligations.ClsTurnsEveryPixelOff := fun _ =>
  ⟨_, rfl, fun px py _ _ => Screen.pixel_clearScreen px py, rfl⟩

/-! ### The flag of a draw -/

theorem State.reg_setFlag_vf (s : State) (c : Bool) : (s.setFlag c).reg 15 = flagByte c :=
  s.reg_setReg_self Reg.vf _

theorem State.reg_setFlag_ne (s : State) (c : Bool) {j : Reg} (h : j ≠ 15) : (s.setFlag c).reg j = s.reg j :=
  s.reg_setReg_ne h _

theorem State.reg_setFlag_vf_eq_one_iff (s : State) (c : Bool) : ((s.setFlag c).reg 15).toNat = 1 ↔ c = true := by
  rw [State.reg_setFlag_vf, flagByte_toNat]
  cases c <;> decide

theorem State.reg_setFlag_vf_le_one (s : State) (c : Bool) : ((s.setFlag c).reg 15).toNat ≤ 1 := by
  rw [State.reg_setFlag_vf, flagByte_toNat]
  split <;> omega

/-! ### The collision -/

/-- A pixel that is on lies on the grid (R36). -/
theorem Screen.on_grid_of_pixel {fb : Screen} {px py : Nat} (h : Screen.pixel fb px py = true) :
    px < 64 ∧ py < 32 := by
  by_contra hoff
  rw [Screen.pixel_off_grid fb hoff] at h
  exact Bool.false_ne_true h

/-- A draw collides exactly at a covered pixel of the grid, since no pixel off it is on (R255, R256). -/
theorem State.drawRows_collision_on_grid (s : State) (x0 y0 n : Nat) :
    (s.drawRows x0 y0 n).2 = true ↔ ∃ px py, px < 64 ∧ py < 32 ∧
      s.spriteCovers x0 y0 n px py = true ∧ Screen.pixel s.fb px py = true := by
  rw [State.drawRows_collision]
  constructor
  · rintro ⟨px, py, hcov, hon⟩
    obtain ⟨hx, hy⟩ := Screen.on_grid_of_pixel hon
    exact ⟨px, py, hx, hy, hcov, hon⟩
  · rintro ⟨px, py, -, -, hcov, hon⟩
    exact ⟨px, py, hcov, hon⟩

/-! ### The draw -/

/-- On the grid a draw toggles the covered pixels and no other (R252). -/
theorem State.drawRows_pixel_on_grid (s : State) (x0 y0 n : Nat) {px py : Nat} (hx : px < 64) (hy : py < 32) :
    Screen.pixel (s.drawRows x0 y0 n).1.fb px py =
      (Screen.pixel s.fb px py ^^ s.spriteCovers x0 y0 n px py) := by
  rw [State.drawRows_pixel, decide_eq_true ⟨hx, hy⟩, Bool.true_and]

/-- A draw of rows leaves the registers, its flag being written after it. -/
theorem State.drawRows_reg (s : State) (x0 y0 n : Nat) (j : Reg) :
    (s.drawRows x0 y0 n).1.reg j = s.reg j :=
  State.reg_congr (by rw [State.drawRows_eq]) j

/-- A draw reports ADDR_WRAP exactly where it has rows and the last one lies at 4096 or more (R62). -/
theorem State.drawRows_diag_eq_ite (s : State) (x0 y0 n : Nat) :
    (s.drawRows x0 y0 n).1.out.diag =
      if 0 < n ∧ 4096 ≤ s.i.toNat + (n - 1) then s.out.diag ||| 0x08 else s.out.diag := by
  rw [State.drawRows_diag]
  cases n with
  | zero => rfl
  | succ n =>
    rw [diagAfter_block]
    simp only [Nat.zero_lt_succ, true_and, Nat.add_sub_cancel]

/-- Settles O42: DRW draws the rows, writes the collision to `VF` and marks the framebuffer changed. -/
theorem drawTogglesExactlyTheCoveredPixels : Obligations.DrawTogglesExactlyTheCoveredPixels := by
  intro x y n s
  refine ⟨_, rfl, fun px py hx hy => ?_, ?_, State.reg_setFlag_vf_le_one _ _, fun j hj => ?_, ?_⟩
  · exact s.drawRows_pixel_on_grid _ _ _ hx hy
  · exact (State.reg_setFlag_vf_eq_one_iff _ _).trans (s.drawRows_collision_on_grid _ _ _)
  · exact (State.reg_setFlag_ne _ _ hj).trans (s.drawRows_reg _ _ _ j)
  · rw [← s.drawRows_diag_eq_ite (s.reg x).toNat (s.reg y).toNat n.toNat]
    exact exec_eq_of_marksFbChanged (i := .drw x y n) rfl rfl

end Sys2Proof.Machine
end

section
/-!
PROOFS. Which key a byte names, and whether it is held; with it O35.
-/
namespace Sys2Proof.Machine

/-- The held key is the one whose code the byte is; a byte above 15 is no key's code (R270). -/
theorem State.keyHeld_iff (s : State) (b : Byte) :
    s.keyHeld b = true ↔ ∃ k : Fin 16, b.toNat = k.val ∧ s.keys[k] = true := by
  unfold State.keyHeld
  split
  case isTrue hlt =>
    constructor
    · exact fun hheld => ⟨⟨b.toNat, hlt⟩, rfl, hheld⟩
    · rintro ⟨k, hk, hheld⟩
      have hkey : (⟨b.toNat, hlt⟩ : Fin 16) = k := Fin.ext hk
      rwa [hkey]
  case isFalse hge =>
    exact ⟨fun h => absurd h Bool.false_ne_true, fun ⟨k, hk, _⟩ => absurd (hk.trans_lt k.isLt) hge⟩

/-- Settles O35: SKP skips on the key test of its register, SKNP on the negated test. -/
theorem keySkips : Obligations.KeySkips := fun x s =>
  have hkey := s.keyHeld_iff (s.reg x)
  ⟨skipsExactlyIf_of_exec rfl hkey, skipsExactlyIf_of_exec rfl (Bool.not_iff_not.trans (not_congr hkey))⟩

end Sys2Proof.Machine
end

section
/-!
PROOFS. What the execute stage reports, which later stage of a cycle reports what, and so which bits of `diag` a cycle
ends with; with them O16.
-/
namespace Sys2Proof

open Sys2Proof.Machine

/-- Does a byte that the instruction moves lie past memory? Exactly where the last one does (R61, R66). -/
def Instr.blockLeavesMemory (i : Instr) (s : State) : Bool :=
  decide (0 < i.bytesMoved) && addrLeavesMemory (s.indexAddr (i.bytesMoved - 1))

/-- The one diagnostic that the execute stage of an instruction reports, if any (R301). -/
def Instr.reported (i : Instr) (s : State) : Option Diag :=
  match i with
  | .sys _ => some .sysIgnored
  | .call _ =>
    if s.sp = s.config.stackDepth then some .stackOverflow
    else if pcLeavesMemory (s.pc.toNat + 2) then some .pcWrap else none
  | .ret => if s.sp = 0 then some .stackUnderflow else none
  | .jpV0 nnn => if pcLeavesMemory ((s.reg 0).toNat + nnn.toNat) then some .pcWrap else none
  | .seImm _ _ | .sneImm _ _ | .seReg _ _ | .sneReg _ _ | .skp _ | .sknp _ =>
    if i.skips s && pcLeavesMemory (s.pc.toNat + 2) then some .pcWrap else none
  | .addI x => if decide (0xFFF < (s.i.toNat + (s.reg x).toNat) % 65536) then some .iRange else none
  | .drw _ _ _ | .ldB _ | .storeRegs _ | .loadRegs _ =>
    if i.blockLeavesMemory s then some .addrWrap else none
  | _ => none

namespace Machine

variable {i : Instr} {s e t : State}

/-! ### The bits of `diag` -/

/-- The number of the bit a code sets (R301). -/
def Diag.bit : Diag → Nat
  | .unknownOpcode => 0
  | .sysIgnored => 1
  | .pcWrap => 2
  | .addrWrap => 3
  | .iRange => 4
  | .stackOverflow => 5
  | .stackUnderflow => 6

theorem Diag.mask_eq_twoPow (d : Diag) : d.mask = BitVec.twoPow 8 d.bit := by cases d <;> rfl

theorem Diag.bit_lt (d : Diag) : d.bit < 7 := by cases d <;> decide

theorem Diag.bit_injective : Function.Injective Diag.bit := by
  intro d d' h
  cases d <;> cases d' <;> cases h <;> rfl

theorem Diag.getLsbD_mask (d : Diag) (k : Nat) : d.mask.getLsbD k = decide (d.bit = k) := by
  have hlt : d.bit < 8 := Nat.lt_succ_of_lt d.bit_lt
  rw [d.mask_eq_twoPow, BitVec.getLsbD_twoPow, decide_eq_true hlt, Bool.true_and]

/-- The diagnostic mask after a report, if there is one (R302). -/
def diagWith (m : Byte) : Option Diag → Byte
  | none => m
  | some d => m ||| d.mask

theorem diagAfter_eq_diagWith (m : Byte) (c : Bool) (d : Diag) :
    diagAfter m c d = diagWith m (if c then some d else none) := by cases c <;> rfl

theorem getLsbD_diagWith (m : Byte) (o : Option Diag) (k : Nat) :
    (diagWith m o).getLsbD k = true ↔ m.getLsbD k = true ∨ o.map Diag.bit = some k := by
  cases o with
  | none => simp [diagWith]
  | some d =>
    rw [diagWith, BitVec.getLsbD_or, Diag.getLsbD_mask, Bool.or_eq_true, decide_eq_true_iff, Option.map_some,
      Option.some_inj]

theorem getLsbD_diagAfter (m : Byte) (c : Bool) (d : Diag) (k : Nat) :
    (diagAfter m c d).getLsbD k = true ↔ m.getLsbD k = true ∨ (d.bit = k ∧ c = true) := by
  rw [diagAfter_eq_diagWith, getLsbD_diagWith]
  cases c <;> simp

/-! ### The execute stage -/

/-- The two stack faults (R310). -/
theorem stackFault_cases {f : StackFault} (hf : i.stackFault s = some f) :
    (∃ nnn, i = .call nnn ∧ s.sp = s.config.stackDepth ∧ f = .overflow) ∨ (i = .ret ∧ s.sp = 0 ∧ f = .underflow) := by
  cases i with
  | call nnn =>
    obtain ⟨hsp, hcode⟩ := Option.ite_none_right_eq_some.1 hf
    exact .inl ⟨nnn, rfl, hsp, (Option.some.inj hcode).symm⟩
  | ret =>
    obtain ⟨hsp, hcode⟩ := Option.ite_none_right_eq_some.1 hf
    exact .inr ⟨rfl, hsp, (Option.some.inj hcode).symm⟩
  | _ => cases hf

/-- An instruction that meets its stack fault raises it, which is all it reports (R310). -/
theorem exec_of_stackFault {f : StackFault} (hf : i.stackFault s = some f) :
    exec i s = .next (s.raiseStackFault f) ∧ i.reported s = some f.diag := by
  obtain ⟨nnn, rfl, hsp, rfl⟩ | ⟨rfl, hsp, rfl⟩ := stackFault_cases hf
  · exact ⟨exec_call_of_eq nnn hsp, if_pos hsp⟩
  · exact ⟨exec_ret_of_zero hsp, if_pos hsp⟩

/-- LD Vx, K waits exactly where it finds no held key (R274). -/
theorem setsNoAdvance_ldVxK (x : Reg) (s : State) : (Instr.ldVxK x).setsNoAdvance s = s.lowestKey.isNone := by
  rw [Bool.eq_iff_iff, Option.isNone_iff_eq_none, State.lowestKey, List.find?_eq_none]
  simp only [Instr.setsNoAdvance, List.mem_finRange, Bool.not_eq_true, true_imp_iff, decide_eq_true_eq]

theorem State.jump_diag (s : State) (a : Nat) :
    (s.jump a).out.diag = diagWith s.out.diag (if pcLeavesMemory a then some .pcWrap else none) := by
  rw [State.jump_eq, State.setPc_eq, ← diagAfter_eq_diagWith]

theorem State.skipIf_pc (s : State) (c : Bool) :
    (s.skipIf c).pc = if c then BitVec.ofNat 12 (s.pc.toNat + 2) else s.pc := by
  cases c <;> rfl

theorem State.skipIf_diag (s : State) (c : Bool) :
    (s.skipIf c).out.diag =
      diagWith s.out.diag (if c && pcLeavesMemory (s.pc.toNat + 2) then some .pcWrap else none) := by
  cases c
  · rfl
  · rw [State.skipIf_eq, if_pos rfl, State.setPc_eq, diagAfter_eq_diagWith, Bool.true_and]

/-- What the execute stage without a stack fault leaves to the later stages: the diagnostic it reports, and a `PC` that
only jumps and skips have moved (R120, R124). -/
theorem exec_running (hf : i.stackFault s = none) (h : exec i s = .next e) :
    e.out.diag = diagWith s.out.diag (i.reported s) ∧ e.halted = s.halted ∧
      e.noAdvance = (i.setsNoAdvance s || s.noAdvance) ∧
      (i.setsNoAdvance s = false → e.pc = (s.skipIf (i.skips s)).pc) := by
  cases i with
  | cls | ldImm | addImm | ldReg | orReg | andReg | xorReg | addReg | subReg | shr | subnReg | shl | rnd | ldI | ldF
  | ldVxDt | ldDtVx | ldStVx | sys => cases h; exact ⟨rfl, rfl, rfl, fun _ => rfl⟩
  | seImm | sneImm | seReg | sneReg | skp | sknp =>
    cases h
    rw [State.skipIf_frame]
    exact ⟨s.skipIf_diag _, rfl, rfl, fun _ => rfl⟩
  | jp =>
    cases h
    rw [State.jump_addr]
    exact ⟨rfl, rfl, rfl, nofun⟩
  | jpV0 =>
    cases h
    rw [State.jump_frame]
    exact ⟨s.jump_diag _, rfl, rfl, nofun⟩
  | call nnn =>
    have hsp : s.sp ≠ s.config.stackDepth := by simpa [Instr.stackFault] using hf
    rw [exec, execCall, if_neg hsp] at h
    cases h
    rw [State.jump_addr, State.reportIf_eq, Instr.reported, if_neg hsp, ← diagAfter_eq_diagWith]
    exact ⟨rfl, rfl, rfl, nofun⟩
  | ret =>
    have hsp : s.sp ≠ 0 := by simpa [Instr.stackFault] using hf
    rw [exec_ret_of_pos (Nat.pos_of_ne_zero hsp)] at h
    cases h
    rw [Instr.reported, if_neg hsp]
    exact ⟨rfl, rfl, rfl, nofun⟩
  | drw =>
    cases h
    rw [State.drawRows_eq]
    exact ⟨(s.drawRows_diag _ _ _).trans (diagAfter_eq_diagWith ..), rfl, rfl, fun _ => rfl⟩
  | ldB | storeRegs =>
    cases h
    rw [State.storeBlock_eq]
    exact ⟨(s.storeBlock_diag _ _).trans (diagAfter_eq_diagWith ..), rfl, rfl, fun _ => rfl⟩
  | loadRegs =>
    cases h
    rw [State.loadBlock_eq]
    exact ⟨(s.loadBlock_diag _).trans (diagAfter_eq_diagWith ..), rfl, rfl, fun _ => rfl⟩
  | addI =>
    cases h
    rw [State.reportIf_eq, diagAfter_eq_diagWith]
    exact ⟨rfl, rfl, rfl, fun _ => rfl⟩
  | ldVxK x =>
    rw [exec, execLdVxK] at h
    rw [setsNoAdvance_ldVxK]
    cases hkey : s.lowestKey <;> rw [hkey] at h <;> cases h
    · exact ⟨rfl, rfl, rfl, nofun⟩
    · exact ⟨rfl, rfl, rfl, fun _ => rfl⟩

/-! ### The cycle -/

/-- The one diagnostic that the execute stage of a decoded word reports, if any (R128, R301). -/
def executeReports (w : Except Unrecognized Instr) (s : State) : Option Diag :=
  match w with
  | .ok i => i.reported s
  | .error _ => some .unknownOpcode

/-- Does the advance stage of a decoded word run, and wrap (R26, R125)? -/
def advanceWraps (w : Except Unrecognized Instr) (s : State) : Bool :=
  match w with
  | .ok i =>
    (i.stackFault s).isNone && !i.setsNoAdvance s && pcLeavesMemory ((s.skipIf (i.skips s)).pc.toNat + 2)
  | .error _ => pcLeavesMemory (s.pc.toNat + 2)

/-- The start of a cycle changes nothing that decides what the later stages report. -/
theorem reports_beginCycle (w : Except Unrecognized Instr) (s : State) :
    executeReports w s.beginCycle = executeReports w s ∧ advanceWraps w s.beginCycle = advanceWraps w s := by
  rw [State.beginCycle_eq]
  cases w with
  | error => exact ⟨rfl, rfl⟩
  | ok i =>
    refine ⟨rfl, ?_⟩
    simp only [advanceWraps, State.skipIf_pc]
    rfl

/-- After the execute stage only the advance stage reports (R26). -/
theorem State.finishCycle_diag (s : State) :
    s.finishCycle.out.diag =
      diagAfter s.out.diag (!s.halted && !s.noAdvance && pcLeavesMemory (s.pc.toNat + 2)) .pcWrap := by
  cases hh : s.halted
  · rw [State.finishCycle_running s hh, State.timerTail_eq, State.advanceStage_eq]
    cases hna : s.noAdvance
    · rw [if_neg Bool.false_ne_true, State.setPc_eq]; rfl
    · rw [if_pos rfl]; rfl
  · rw [State.finishCycle_halted s hh]; rfl

/-- The cycle of an instruction reports in its execute stage and, without a stack fault, in its advance stage. -/
theorem finishCycle_exec_diag (hh : s.halted = false) (hna : s.noAdvance = false) (h : exec i s = .next e) :
    e.finishCycle.out.diag =
      diagAfter (diagWith s.out.diag (i.reported s)) (advanceWraps (.ok i) s) .pcWrap := by
  rw [State.finishCycle_diag, advanceWraps]
  cases hf : i.stackFault s with
  | some f =>
    obtain ⟨hexec, hrep⟩ := exec_of_stackFault hf
    cases hexec.symm.trans h
    rw [hrep]
    rfl
  | none =>
    obtain ⟨hdiag, hhalted, hnoAdvance, hpc⟩ := exec_running hf h
    rw [hdiag, hhalted, hh, hnoAdvance, hna, Bool.or_false]
    cases hset : i.setsNoAdvance s
    · rw [hpc hset]; rfl
    · rfl

/-- The diagnostics of a cycle, stage by stage (R120, R302). -/
theorem step_diag (hh : s.halted = false) (h : step s = .next t) :
    t.out.diag =
      diagAfter
        (diagWith (diagAfter 0 (pcLeavesMemory (s.pc.toNat + 1)) .pcWrap) (executeReports (decode s.fetchWord) s))
        (advanceWraps (decode s.fetchWord) s) .pcWrap := by
  have hb : s.beginCycle.out.diag = diagAfter 0 (pcLeavesMemory (s.pc.toNat + 1)) .pcWrap := by
    rw [State.beginCycle_eq]
  have hna : s.beginCycle.noAdvance = false := by rw [State.beginCycle_eq]
  have hrun : s.beginCycle.halted = false := s.beginCycle_halted.trans hh
  obtain ⟨hrep, hadv⟩ := reports_beginCycle (decode s.fetchWord) s
  rw [← hb, ← hrep, ← hadv]
  obtain ⟨hh', -⟩ | ⟨-, i, e, hi, he, rfl⟩ | ⟨-, err, herr, rfl⟩ := step_cases h
  · simp [hh] at hh'
  · rw [hi]
    exact finishCycle_exec_diag hrun hna he
  · have hrun' : s.beginCycle.executeUnrecognized.halted = false := hrun
    have hna' : s.beginCycle.executeUnrecognized.noAdvance = false := hna
    rw [herr, State.finishCycle_diag, hrun', hna']
    rfl

/-- A bit of `diag` at the end of a cycle: the execute stage's, or PC_WRAP from the fetch or the advance stage. -/
theorem getLsbD_diag_step (hh : s.halted = false) (h : step s = .next t) (k : Nat) :
    t.out.diag.getLsbD k = true ↔
      (executeReports (decode s.fetchWord) s).map Diag.bit = some k ∨
        (Diag.pcWrap.bit = k ∧ (s.pc = 0xFFF ∨ advanceWraps (decode s.fetchWord) s = true)) := by
  have hzero : (0 : Byte).getLsbD k = false := BitVec.getLsbD_zero
  rw [step_diag hh h, getLsbD_diagAfter, getLsbD_diagWith, getLsbD_diagAfter, pcLeavesMemory_succ_iff, hzero]
  tauto

/-- A code other than PC_WRAP comes from the execute stage alone. -/
theorem getLsbD_diag_step_of_ne {d : Diag} (hd : d ≠ .pcWrap) (hh : s.halted = false) (h : step s = .next t) :
    t.out.diag.getLsbD d.bit = true ↔ executeReports (decode s.fetchWord) s = some d := by
  have hbit : Diag.pcWrap.bit ≠ d.bit := Diag.bit_injective.ne hd.symm
  rw [getLsbD_diag_step hh h, ← Option.map_some, (Option.map_injective Diag.bit_injective).eq_iff]
  simp only [hbit, false_and, or_false]

theorem getLsbD_diag_step_pcWrap (hh : s.halted = false) (h : step s = .next t) :
    t.out.diag.getLsbD Diag.pcWrap.bit = true ↔
      s.pc = 0xFFF ∨ advanceWraps (decode s.fetchWord) s = true ∨
        executeReports (decode s.fetchWord) s = some .pcWrap := by
  rw [getLsbD_diag_step hh h, ← Option.map_some, (Option.map_injective Diag.bit_injective).eq_iff]
  tauto

/-! ### The causes -/

/-- The cause of every code but PC_WRAP, each read off the instructions one by one (R301). -/
theorem executeReports_causes (w : Except Unrecognized Instr) (s : State) :
    (executeReports w s = some .unknownOpcode ↔ ∃ e, w = .error e) ∧
    (executeReports w s = some .sysIgnored ↔ ∃ nnn, w = .ok (.sys nnn)) ∧
    (executeReports w s = some .addrWrap ↔ ∃ i, w = .ok i ∧ i.blockLeavesMemory s = true) ∧
    (executeReports w s = some .iRange ↔
      ∃ x, w = .ok (.addI x) ∧ 0xFFF < (s.i.toNat + (s.reg x).toNat) % 65536) ∧
    (executeReports w s = some .stackOverflow ↔ ∃ nnn, w = .ok (.call nnn) ∧ s.sp = s.config.stackDepth) ∧
    (executeReports w s = some .stackUnderflow ↔ w = .ok .ret ∧ s.sp = 0) := by
  cases w with
  | error => simp [executeReports]
  | ok i =>
    cases i <;> simp [executeReports, Instr.reported, ite_eq_iff, Instr.blockLeavesMemory, Instr.bytesMoved]

theorem blockLeavesMemory_iff :
    i.blockLeavesMemory s = true ↔ ∃ k, k < i.bytesMoved ∧ 4096 ≤ s.i.toNat + k := by
  rw [Instr.blockLeavesMemory, Bool.and_eq_true, decide_eq_true_iff, addrLeavesMemory, decide_eq_true_iff,
    State.indexAddr, memSize]
  constructor
  · rintro ⟨hpos, hlast⟩
    exact ⟨_, Nat.sub_lt hpos Nat.one_pos, hlast⟩
  · rintro ⟨k, hk, hout⟩
    omega

theorem pcLeavesMemory_iff (a : Nat) : pcLeavesMemory a = true ↔ 4096 ≤ a := decide_eq_true_iff

/-- Where the advance stage runs, the instruction can wrap only in its skip. -/
theorem reported_pcWrap_of_advances (hset : i.setsNoAdvance s = false) :
    i.reported s = some .pcWrap ↔ i.skips s = true ∧ 4096 ≤ s.pc.toNat + 2 := by
  cases i with
  | jp | call | ret | jpV0 => cases hset
  | _ => simp [Instr.reported, Instr.skips, pcLeavesMemory_iff]

/-- Where the advance stage runs, execution goes on past the instruction, and past the next one after a skip. -/
theorem nextPc_of_advances (hset : i.setsNoAdvance s = false) :
    i.stackFault s = none ∧ (∀ nnn, i ≠ .call nnn) ∧ i.nextPc s = s.pc.toNat + if i.skips s then 4 else 2 := by
  cases i with
  | jp | call | ret | jpV0 => cases hset
  | ldVxK => exact ⟨rfl, nofun, if_neg (of_decide_eq_false hset)⟩
  | _ => exact ⟨rfl, nofun, rfl⟩

/-- A skip and the advance after it wrap, one or the other, exactly where their sum does (R26, R151). -/
theorem State.skipIf_wraps_iff (s : State) (c : Bool) :
    4096 ≤ (s.skipIf c).pc.toNat + 2 ∨ (c = true ∧ 4096 ≤ s.pc.toNat + 2) ↔
      4096 ≤ s.pc.toNat + if c then 4 else 2 := by
  rw [State.skipIf_pc]
  cases c
  · simp
  · simp only [if_true, BitVec.toNat_ofNat, true_and]
    omega

/-- The wraps after the fetch: of where execution goes on, and of the return address of a CALL (R26, R154). -/
theorem wraps_ok_iff (i : Instr) (s : State) :
    advanceWraps (.ok i) s = true ∨ i.reported s = some .pcWrap ↔
      i.stackFault s = none ∧ (4096 ≤ i.nextPc s ∨ ∃ nnn, i = .call nnn ∧ 4096 ≤ s.pc.toNat + 2) := by
  cases hset : i.setsNoAdvance s with
  | false =>
    obtain ⟨hf, hcall, hnext⟩ := nextPc_of_advances hset
    have hadv : advanceWraps (.ok i) s = true ↔ 4096 ≤ (s.skipIf (i.skips s)).pc.toNat + 2 := by
      rw [advanceWraps, hf, hset]
      exact pcLeavesMemory_iff _
    rw [hadv, reported_pcWrap_of_advances hset, State.skipIf_wraps_iff, ← hnext]
    simp [hf, hcall]
  | true =>
    have hstay : advanceWraps (.ok i) s = false := by simp [advanceWraps, hset]
    have haddr : ∀ a : Addr, ¬ 4096 ≤ a.toNat := fun a => Nat.not_le.2 a.isLt
    rw [hstay]
    cases i with
    | jp nnn => simp [Instr.reported, Instr.nextPc, haddr]
    | ret => simp [Instr.reported, Instr.nextPc, haddr]
    | jpV0 nnn => simp [Instr.reported, Instr.nextPc, Instr.stackFault, pcLeavesMemory_iff]
    | call nnn => simp [Instr.reported, Instr.nextPc, Instr.stackFault, ite_eq_iff, pcLeavesMemory_iff, haddr]
    | ldVxK x =>
      simp only [Instr.reported, Instr.nextPc, if_pos (of_decide_eq_true hset), haddr]
      simp
    | _ => cases hset

/-- The wraps after the fetch, of any decoded word. -/
theorem wraps_iff (w : Except Unrecognized Instr) (s : State) :
    advanceWraps w s = true ∨ executeReports w s = some .pcWrap ↔
      (∃ e, w = .error e ∧ 4096 ≤ s.pc.toNat + 2) ∨
      (∃ i, w = .ok i ∧ i.stackFault s = none ∧
        (4096 ≤ i.nextPc s ∨ ∃ nnn, i = .call nnn ∧ 4096 ≤ s.pc.toNat + 2)) := by
  cases w with
  | error => simp [advanceWraps, executeReports, pcLeavesMemory_iff]
  | ok i => simpa [executeReports] using wraps_ok_iff i s

/-- Settles O16: each bit but PC_WRAP is the one report of the execute stage, read off instruction by instruction, and
PC_WRAP adds the fetch's wrap and the advance stage's. -/
theorem everyCycleReportsItsDiagnostics : Obligations.EveryCycleReportsItsDiagnostics := by
  intro s t hh h
  have hexec (d : Diag) (hd : d ≠ .pcWrap) := getLsbD_diag_step_of_ne hd hh h
  obtain ⟨hunknown, hsys, haddr, hrange, hoverflow, hunderflow⟩ := executeReports_causes (decode s.fetchWord) s
  simp only [blockLeavesMemory_iff] at haddr
  refine ⟨(hexec .unknownOpcode nofun).trans hunknown, (hexec .sysIgnored nofun).trans hsys,
    (getLsbD_diag_step_pcWrap hh h).trans (or_congr_right (wraps_iff _ s)), (hexec .addrWrap nofun).trans haddr,
    (hexec .iRange nofun).trans hrange, (hexec .stackOverflow nofun).trans hoverflow,
    (hexec .stackUnderflow nofun).trans hunderflow, ?_⟩
  rw [Bool.eq_false_iff, ne_eq, getLsbD_diag_step hh h, not_or]
  refine ⟨fun hbit => ?_, fun hbit => absurd hbit.1 (by decide)⟩
  obtain ⟨d, -, hd⟩ := Option.map_eq_some_iff.1 hbit
  exact absurd hd d.bit_lt.ne

end Machine
end Sys2Proof
end

section
/-!
PROOFS. What the state after reset holds, piece by piece, and what a load answers and leaves in either case; with them
O57 and O58.
-/
namespace Sys2Proof.Machine

/-! ### The state after reset -/

@[simp] theorem State.resetOp_config (s : State) : s.resetOp.config = s.config := rfl
@[simp] theorem State.resetOp_mem (s : State) : s.resetOp.mem = [] := rfl

theorem State.resetOp_reg (s : State) (x : Reg) : s.resetOp.reg x = 0 := Vector.getElem_replicate _
theorem State.resetOp_key (s : State) (k : Fin 16) : s.resetOp.keys[k] = false := Vector.getElem_replicate _
theorem State.resetOp_pixel (s : State) (px py : Nat) : s.resetOp.fb.pixel px py = false :=
  Screen.pixel_clearScreen px py

/-- After reset every byte is the font's or 0 (R43, R70). -/
theorem State.resetOp_byte (s : State) {a : Nat} (ha : a < memSize) :
    s.resetOp.byte a = Memory.unlisted s.config.font a := by
  rw [State.byte, State.resetOp_config, State.resetOp_mem, Memory.read_nil, reduceAddr_of_lt ha]

/-- Settles O57: the array-like pieces each by their lemma above, the others by the definition of the state after
reset. -/
theorem resetSetsEveryPiece : Obligations.ResetSetsEveryPiece := fun s =>
  ⟨s.resetOp, rfl, s.resetOp_reg, rfl, rfl, rfl, rfl, rfl, rfl, fun _ => s.resetOp_byte,
    fun px py _ _ => s.resetOp_pixel px py, s.resetOp_key, rfl, rfl, rfl, rfl⟩

/-! ### The load -/

theorem operate_load_of_tooLarge {s : State} {bytes : List Byte}
    (h : 4096 < 512 + bytes.length + s.config.loadTrailer) :
    operate (.load bytes) s = .next (.loadFailed .tooLarge, s.resetOp) :=
  congrArg _ (if_pos ((loadTooLarge_iff _ _).2 h))

theorem operate_load_of_fits {s : State} {bytes : List Byte}
    (h : 512 + bytes.length + s.config.loadTrailer ≤ 4096) :
    operate (.load bytes) s = .next (.loaded, s.resetOp.copyBytes pcStart bytes) :=
  congrArg _ (if_neg (mt (loadTooLarge_iff _ _).1 (Nat.not_lt.2 h)))

/-- Settles O58, by the bound of R351: past it the answer is the failure and the state after reset; within it the copy
changes memory alone, byte by byte in the block and nowhere outside it. -/
theorem loadResetsAndCopies : Obligations.LoadResetsAndCopies := by
  intro s r bytes htrailer hreset
  cases hreset
  constructor
  · intro hlarge
    exact operate_load_of_tooLarge (by omega)
  · intro hfits
    have hblock : pcStart + bytes.length ≤ memSize := show 512 + bytes.length ≤ 4096 by omega
    exact ⟨_, operate_load_of_fits (by omega), State.copyBytes_eq _ _ _,
      State.copyBytes_byte _ (Memory.wf_nil _) _ _ hblock,
      fun a ha hout => State.copyBytes_byte_ne _ _ _ _ ha hblock hout⟩

end Sys2Proof.Machine
end

section
/-!
PROOFS. The decoder and the encoder are inverse: every word either is the encoding of the well-formed instruction it
decodes to, or lies in a listed group of unrecognized words; with them O2, O3, O5 and O1.
-/
namespace Sys2Proof

open Laws

/-! ### Decoding what was encoded -/

theorem decode_encode : ∀ i : Instr, EncodeDecode.Statement i
  | .cls => EncodeDecode.cls
  | .ret => EncodeDecode.ret
  | .sys nnn => EncodeDecode.sys nnn
  | .jp nnn => EncodeDecode.jp nnn
  | .call nnn => EncodeDecode.call nnn
  | .seImm x nn => EncodeDecode.seImm x nn
  | .sneImm x nn => EncodeDecode.sneImm x nn
  | .seReg x y => EncodeDecode.seReg x y
  | .ldImm x nn => EncodeDecode.ldImm x nn
  | .addImm x nn => EncodeDecode.addImm x nn
  | .ldReg x y => EncodeDecode.ldReg x y
  | .orReg x y => EncodeDecode.orReg x y
  | .andReg x y => EncodeDecode.andReg x y
  | .xorReg x y => EncodeDecode.xorReg x y
  | .addReg x y => EncodeDecode.addReg x y
  | .subReg x y => EncodeDecode.subReg x y
  | .shr x y => EncodeDecode.shr x y
  | .subnReg x y => EncodeDecode.subnReg x y
  | .shl x y => EncodeDecode.shl x y
  | .sneReg x y => EncodeDecode.sneReg x y
  | .ldI nnn => EncodeDecode.ldI nnn
  | .jpV0 nnn => EncodeDecode.jpV0 nnn
  | .rnd x nn => EncodeDecode.rnd x nn
  | .drw x y n => EncodeDecode.drw x y n
  | .skp x => EncodeDecode.skp x
  | .sknp x => EncodeDecode.sknp x
  | .ldVxDt x => EncodeDecode.ldVxDt x
  | .ldVxK x => EncodeDecode.ldVxK x
  | .ldDtVx x => EncodeDecode.ldDtVx x
  | .ldStVx x => EncodeDecode.ldStVx x
  | .addI x => EncodeDecode.addI x
  | .ldF x => EncodeDecode.ldF x
  | .ldB x => EncodeDecode.ldB x
  | .storeRegs x => EncodeDecode.storeRegs x
  | .loadRegs x => EncodeDecode.loadRegs x

/-- A word's two bytes in front of any others decode to what the word does (R65). -/
theorem decodeBytes_bytesOfWord {op : Word} {i : Instr} (h : decode op = .ok i) (rest : List Byte) :
    decodeBytes (bytesOfWord op ++ rest) = .ok (i, rest) := by
  simp only [bytesOfWord, List.cons_append, List.nil_append, decodeBytes, wordOfBytes_bytes, h]

theorem decodeTableWord_toNat {op : Word} {i : Instr} (h : decode op = .ok i) :
    decodeTableWord 16 op.toNat = some i := by
  have hop : BitVec.ofNat 16 (op.toNat % 2 ^ 16) = op := by
    rw [Nat.mod_eq_of_lt op.isLt, BitVec.ofNat_toNat, BitVec.setWidth_eq]
  have hbytes := decodeBytes_bytesOfWord h []
  rw [List.append_nil] at hbytes
  rw [decodeTableWord, hop, hbytes]

/-- Settles O2: the word by the round trip of each constructor, its number and its bytes by being the word again. -/
theorem decodeInvertsEncode : Obligations.DecodeInvertsEncode := fun i hi =>
  have h := decode_encode i hi
  ⟨h, decodeTableWord_toNat h, decodeBytes_bytesOfWord h⟩

/-! ### Encoding what was decoded -/

/-- The five groups of words that are no instruction, on the number of the word (R103). -/
def UnrecognizedNumber (w : Nat) : Prop :=
  (w / 4096 = 0x5 ∧ w % 16 ≠ 0) ∨
  (w / 4096 = 0x8 ∧ w % 16 ∈ [0x8, 0x9, 0xA, 0xB, 0xC, 0xD, 0xF]) ∨
  (w / 4096 = 0x9 ∧ w % 16 ≠ 0) ∨
  (w / 4096 = 0xE ∧ w % 256 ∉ [0x9E, 0xA1]) ∨
  (w / 4096 = 0xF ∧ w % 256 ∉ [0x07, 0x0A, 0x15, 0x18, 0x1E, 0x29, 0x33, 0x55, 0x65])

/-- An answer of the decoder that accounts for every bit of the word: the word is the encoding of the instruction, or
it is listed as none. -/
def AccountsFor (op : Word) : Except Unrecognized Instr → Prop
  | .ok i => i.wellFormed = true ∧ encode i = op
  | .error _ => UnrecognizedNumber op.toNat

variable {op : Word}

theorem accountsFor_group0 (h : opMajor op = 0x0#4) : AccountsFor op (.ok (decodeGroup0 op)) := by
  have hop : packA 0x0#4 (fieldNNN op) = op := by rw [← h, packA_fields]
  unfold decodeGroup0
  split
  · exact ⟨rfl, Eq.symm ‹_›⟩
  split
  · exact ⟨rfl, Eq.symm ‹_›⟩
  · exact ⟨Instr.wellFormed_sys (by rwa [hop]) (by rwa [hop]), hop⟩

/-- A sub-opcode that selects no row of the 8-group is one of R103's list. -/
theorem accountsFor_group8 (h : opMajor op = 0x8#4) : AccountsFor op (decodeGroup8 op) := by
  have hop := packXYN_fields op
  have hmajor := opMajor_toNat op
  rw [h] at hop hmajor
  unfold decodeGroup8
  split
  case h_10 =>
    refine .inr (.inl ⟨hmajor.symm, ?_⟩)
    rw [← fieldN_toNat]
    simp only [List.mem_cons, List.not_mem_nil, or_false, imp_false] at *
    bv_omega
  all_goals
    rename_i hn
    rw [hn] at hop
    exact ⟨rfl, hop⟩

theorem accountsFor_groupE (h : opMajor op = 0xE#4) : AccountsFor op (decodeGroupE op) := by
  have hop := packXK_fields op
  have hmajor := opMajor_toNat op
  rw [h] at hop hmajor
  unfold decodeGroupE
  split
  case h_3 =>
    refine .inr (.inr (.inr (.inl ⟨hmajor.symm, ?_⟩)))
    rw [← fieldNN_toNat]
    simp only [List.mem_cons, List.not_mem_nil, or_false, imp_false] at *
    bv_omega
  all_goals
    rename_i hnn
    rw [hnn] at hop
    exact ⟨rfl, hop⟩

theorem accountsFor_groupF (h : opMajor op = 0xF#4) : AccountsFor op (decodeGroupF op) := by
  have hop := packXK_fields op
  have hmajor := opMajor_toNat op
  rw [h] at hop hmajor
  unfold decodeGroupF
  split
  case h_10 =>
    refine .inr (.inr (.inr (.inr ⟨hmajor.symm, ?_⟩)))
    rw [← fieldNN_toNat]
    simp only [List.mem_cons, List.not_mem_nil, or_false, imp_false] at *
    bv_omega
  all_goals
    rename_i hnn
    rw [hnn] at hop
    exact ⟨rfl, hop⟩

/-- A sub-opcode other than 0 is not 0 on the number of the word either. -/
theorem toNat_mod_ne_zero (h : fieldN op ≠ 0) : op.toNat % 16 ≠ 0 := by
  rw [← fieldN_toNat]
  exact fun h0 => h (BitVec.eq_of_toNat_eq h0)

/-- The decoder accounts for every word, row by row of its map (R133). -/
theorem decode_accountsFor (op : Word) : AccountsFor op (decode op) := by
  have hmajor := opMajor_toNat op
  have hA := packA_fields op
  have hXK := packXK_fields op
  have hXYN := packXYN_fields op
  unfold decode
  split
  case h_16 =>
    simp only [imp_false] at *
    exact accountsFor_groupF (by bv_omega)
  all_goals
    rename_i hc
    rw [hc] at hmajor hA hXK hXYN
  case h_1 => exact accountsFor_group0 hc
  case h_9 => exact accountsFor_group8 hc
  case h_15 => exact accountsFor_groupE hc
  case h_6 =>
    split
    case isTrue hn => rw [hn] at hXYN; exact ⟨rfl, hXYN⟩
    case isFalse hn => exact .inl ⟨hmajor.symm, toNat_mod_ne_zero hn⟩
  case h_10 =>
    split
    case isTrue hn => rw [hn] at hXYN; exact ⟨rfl, hXYN⟩
    case isFalse hn => exact .inr (.inr (.inl ⟨hmajor.symm, toNat_mod_ne_zero hn⟩))
  case h_14 => exact ⟨rfl, hXYN⟩
  case h_4 | h_5 | h_7 | h_8 | h_13 => exact ⟨rfl, hXK⟩
  all_goals exact ⟨rfl, hA⟩

/-- Settles O3: an answer that is an instruction accounts for the word by encoding to it. -/
theorem encodeInvertsDecode : Obligations.EncodeInvertsDecode := by
  intro op i h
  have haccount := decode_accountsFor op
  rwa [h] at haccount

/-! ### The unrecognized words -/

theorem opMajor_of_div {c : Nibble} (h : op.toNat / 4096 = c.toNat) : opMajor op = c :=
  BitVec.eq_of_toNat_eq ((opMajor_toNat op).trans h)

theorem packXYN_of_div {c : Nibble} (h : op.toNat / 4096 = c.toNat) :
    packXYN c (fieldX op) (fieldY op) (fieldN op) = op := by rw [← opMajor_of_div h, packXYN_fields]

theorem packXK_of_div {c : Nibble} (h : op.toNat / 4096 = c.toNat) :
    packXK c (fieldX op) (fieldNN op) = op := by rw [← opMajor_of_div h, packXK_fields]

theorem decode_of_unrecognizedNumber (h : UnrecognizedNumber op.toNat) : ∃ e, decode op = .error e := by
  obtain ⟨hc, hn⟩ | ⟨hc, hn⟩ | ⟨hc, hn⟩ | ⟨hc, hnn⟩ | ⟨hc, hnn⟩ := h
  · rw [← packXYN_of_div (c := 0x5#4) hc]
    rw [← fieldN_toNat] at hn
    exact ⟨_, decode_group5_of_ne fun h0 => hn (congrArg BitVec.toNat h0)⟩
  · rw [← packXYN_of_div (c := 0x8#4) hc]
    rw [← fieldN_toNat] at hn
    simp only [List.mem_cons, List.not_mem_nil, or_false] at hn
    exact ⟨_, decode_group8_of_gt (by omega) (by bv_omega)⟩
  · rw [← packXYN_of_div (c := 0x9#4) hc]
    rw [← fieldN_toNat] at hn
    exact ⟨_, decode_group9_of_ne fun h0 => hn (congrArg BitVec.toNat h0)⟩
  · rw [← packXK_of_div (c := 0xE#4) hc]
    rw [← fieldNN_toNat] at hnn
    simp only [List.mem_cons, List.not_mem_nil, or_false] at hnn
    exact ⟨_, decode_groupE_of_ne (by bv_omega) (by bv_omega)⟩
  · rw [← packXK_of_div (c := 0xF#4) hc]
    rw [← fieldNN_toNat] at hnn
    exact ⟨_, decode_groupF_of_notMem hnn⟩

/-- Settles O5: an answer that is no instruction accounts for the word by its group, and each group is rejected. -/
theorem unrecognizedWordsAreExactlyTheListed : Obligations.UnrecognizedWordsAreExactlyTheListed := by
  intro op
  constructor
  · rintro ⟨e, h⟩
    have haccount := decode_accountsFor op
    rwa [h] at haccount
  · exact decode_of_unrecognizedNumber

/-- Settles O1, word by word. -/
theorem wordsOfTheOpcodeMapDecode : Obligations.WordsOfTheOpcodeMapDecode := by
  unfold Obligations.WordsOfTheOpcodeMapDecode
  decide

end Sys2Proof
end

section
/-!
PROOFS. What one data access and one block store leave in memory and report, and why the canonical form of memory is
unique; with them O6, O7, O37, O38 and O40.
-/
namespace Sys2Proof.Machine

/-! ### The canonical form -/

variable {font : Vector Byte 80} {lo a : Nat} {b : Byte} {rest m m' : Memory}

/-- A canonical memory that lists an address reads there as no unlisted address does. -/
theorem Memory.read_head (h : Memory.wfFrom font lo ((a, b) :: rest) = true) :
    Memory.read font ((a, b) :: rest) a = b ∧ b ≠ Memory.unlisted font a ∧ lo ≤ a ∧ a < memSize := by
  obtain ⟨hlo, hlt, hne, -⟩ := (Memory.wfFrom_listed font lo a b rest).1 h
  exact ⟨if_pos rfl, hne, hlo, hlt⟩

/-- A memory that lists its first address differs there from one that lists nothing up to it. -/
theorem Memory.read_head_ne (h : Memory.wfFrom font lo ((a, b) :: rest) = true)
    (h' : Memory.wfFrom font (a + 1) m' = true) :
    Memory.read font ((a, b) :: rest) a ≠ Memory.read font m' a := by
  obtain ⟨hread, hne, -, -⟩ := Memory.read_head h
  rw [hread, Memory.read_below font h' (Nat.lt_succ_self a)]
  exact hne

/-- Two canonical memories that agree from a bound of both on are the same list, by induction on the first. -/
theorem Memory.eq_of_read_eq (h : Memory.wfFrom font lo m = true) (h' : Memory.wfFrom font lo m' = true)
    (hread : ∀ a, lo ≤ a → a < memSize → Memory.read font m a = Memory.read font m' a) : m = m' := by
  induction m generalizing lo m' with
  | nil =>
    cases m' with
    | nil => rfl
    | cons c' rest' =>
      obtain ⟨-, -, hlo', hlt'⟩ := Memory.read_head h'
      exact absurd (hread _ hlo' hlt').symm (Memory.read_head_ne h' rfl)
  | cons c rest ih =>
    obtain ⟨a, b⟩ := c
    obtain ⟨hb, -, hlo, hlt⟩ := Memory.read_head h
    cases m' with
    | nil => exact absurd (hread _ hlo hlt) (Memory.read_head_ne h rfl)
    | cons c' rest' =>
      obtain ⟨a', b'⟩ := c'
      obtain ⟨hb', -, hlo', hlt'⟩ := Memory.read_head h'
      obtain hbelow | rfl | habove := Nat.lt_trichotomy a a'
      · exact absurd (hread _ hlo hlt) (Memory.read_head_ne h (Memory.wfFrom_above font h' hbelow))
      · have hsame : b = b' := by rw [← hb, ← hb', hread _ hlo hlt]
        obtain ⟨-, -, -, hrest⟩ := (Memory.wfFrom_listed font lo a b rest).1 h
        obtain ⟨-, -, -, hrest'⟩ := (Memory.wfFrom_listed font lo a b' rest').1 h'
        rw [hsame, ih hrest hrest' fun c hc hcm => ?_]
        have hne : c ≠ a := by omega
        have hc' := hread c (by omega) hcm
        rwa [Memory.read_listed, Memory.read_listed, if_neg hne, if_neg hne] at hc'
      · exact absurd (hread _ hlo' hlt').symm (Memory.read_head_ne h' (Memory.wfFrom_above font h habove))

/-- Settles O7: the bound is address 0. -/
theorem equalMemoriesAreEqualData : Obligations.EqualMemoriesAreEqualData := fun _ _ _ h h' hread =>
  Memory.eq_of_read_eq h h' fun a _ => hread a

/-! ### One access -/

variable {s : State}

/-- ADDR_WRAP is reported exactly from 4096 on (R61). -/
theorem diagAfter_addrWrap (m : Byte) (a : Nat) :
    diagAfter m (addrLeavesMemory a) .addrWrap = if 4096 ≤ a then m ||| 0x08 else m := by
  simp only [diagAfter, addrLeavesMemory, memSize, Diag.mask, decide_eq_true_eq]

theorem State.memWrite_byte (s : State) (a : Nat) (b : Byte) (c : Nat) :
    (s.memWrite a b).byte c = (s.setByte a b).byte c := by
  rw [State.memWrite_eq]
  rfl

/-- Settles O6: an access is its byte at the reduced address and the report of the address as it was computed. -/
theorem memoryAccessReducesAndReports : Obligations.MemoryAccessReducesAndReports := by
  intro s a b hwf
  have hstored : (s.memWrite a b).byte a = b := by rw [State.memWrite_byte, State.byte_setByte_self hwf rfl]
  refine ⟨(s.byte_mod a).symm, ?_, (State.byte_mod _ a).trans hstored, hstored, ?_, ?_, ?_⟩
  · rw [State.memRead_eq, diagAfter_addrWrap]
  · intro c hc hne
    rw [State.memWrite_byte, State.byte_setByte_ne s (by rwa [reduceAddr_of_lt hc])]
  · rw [State.memWrite_eq, diagAfter_addrWrap]
  · rw [State.memWrite_eq]
    exact State.setByte_wf hwf a b

/-! ### Block stores -/

/-- A store of `n + 1` bytes changes memory, and reports what its last address does. -/
theorem State.storeBlock_succ_eq (s : State) (f : Nat → Byte) (n : Nat) :
    s.storeBlock f (n + 1) = { s with
      mem := (s.storeBlock f (n + 1)).mem
      out := { s.out with diag := if 4096 ≤ s.i.toNat + n then s.out.diag ||| 0x08 else s.out.diag } } := by
  rw [← diagAfter_block, ← State.storeBlock_diag]
  exact s.storeBlock_eq f (n + 1)

/-- A stored byte, at its address as the spec writes it (R61, R220). -/
theorem State.storeBlock_byte_mod (hwf : Memory.wf s.config.font s.mem = true) (f : Nat → Byte) {n k : Nat}
    (hk : k < n) (hn : n ≤ 16) : (s.storeBlock f n).byte ((s.i.toNat + k) % 4096) = f k := by
  rw [State.byte_mod]
  exact s.storeBlock_byte hwf f n k hk (hn.trans (by decide))

/-- A byte outside the block, its addresses as the spec writes them. -/
theorem State.storeBlock_byte_mod_ne (s : State) (f : Nat → Byte) {n c : Nat} (hc : c < 4096)
    (hne : ∀ k, k < n → c ≠ (s.i.toNat + k) % 4096) : (s.storeBlock f n).byte c = s.byte c := by
  refine s.storeBlock_byte_ne f n c fun k hk => ?_
  rw [reduceAddr_of_lt hc]
  exact hne k hk

theorem bcdDigit_toNat (b : Byte) :
    (bcdDigit b 0).toNat = b.toNat / 100 ∧ (bcdDigit b 1).toNat = b.toNat / 10 % 10 ∧
      (bcdDigit b 2).toNat = b.toNat % 10 := by
  have hlt : b.toNat < 256 := b.isLt
  simp only [bcdDigit, BitVec.toNat_ofNat]
  omega

/-- Settles O37: LD B is the store of a block of three digits. -/
theorem bcdStoresThreeDigits : Obligations.BcdStoresThreeDigits := by
  intro x s hwf
  obtain ⟨hhundreds, htens, hunits⟩ := bcdDigit_toNat (s.reg x)
  have hbyte (k : Nat) (hk : k < 3) := State.storeBlock_byte_mod hwf (bcdDigit (s.reg x)) hk (by decide)
  refine ⟨_, rfl, ?_, ?_, ?_, fun a ha hne => s.storeBlock_byte_mod_ne _ ha hne, s.storeBlock_succ_eq _ 2⟩
  · rw [hbyte 0 (by decide), hhundreds]
  · rw [hbyte 1 (by decide), htens]
  · rw [hbyte 2 (by decide), hunits]

theorem blockReg_val (k : Reg) : blockReg k.val = k := Fin.ext (Nat.mod_eq_of_lt k.isLt)

/-- Settles O38: LD [I],Vx is the store of the block of V0 to Vx. -/
theorem registerDumpStoresTheBlock : Obligations.RegisterDumpStoresTheBlock := by
  intro x s hwf
  refine ⟨_, rfl, fun k hk => ?_, fun a ha hne => ?_, s.storeBlock_succ_eq _ x.val⟩
  · rw [State.storeBlock_byte_mod hwf _ (Nat.lt_succ_of_le hk) x.isLt, blockReg_val]
  · refine s.storeBlock_byte_mod_ne _ ha fun k hk => hne ⟨k, by omega⟩ (Nat.le_of_lt_succ hk)

/-- Settles O40: the load (O39) reads each register from the byte where the dump (O38) put it, memory, parameters and
`I` being those the dump left. -/
theorem dumpThenLoadRestoresTheRegisters : Obligations.DumpThenLoadRestoresTheRegisters := by
  intro x s t u hwf hdump hmem hconfig hi
  obtain ⟨t', hdump', hstored, -, hframe⟩ := registerDumpStoresTheBlock x s hwf
  cases hdump.symm.trans hdump'
  obtain ⟨w, hload, hloaded, -, -⟩ := registerLoadReadsTheBlock x u
  have hindex : u.i = s.i := by rw [hi, hframe]
  refine ⟨w, hload, fun k hk => ?_⟩
  rw [hloaded k hk, hindex, State.byte_congr hmem hconfig, hstored k hk]

end Sys2Proof.Machine
end

section
/-!
PROOFS. What RND can write, where a jump goes, what RET finds after its CALL, what a draw off the grid covers, and which
key LD Vx, K takes; with them O27, O28, O30, O33, O43, O44 and O45.
-/
namespace Sys2Proof.Machine

/-! ### RND -/

theorem rndResult_range_toNat (nn r : Byte) :
    (rndResult .range nn r).toNat = r.toNat % (nn.toNat + 1) := by
  have hr : r.toNat < 256 := r.isLt
  have hle : r.toNat % (nn.toNat + 1) ≤ r.toNat := Nat.mod_le _ _
  rw [rndResult, BitVec.toNat_ofNat, Nat.mod_eq_of_lt (by omega)]

/-- Settles O27: RND is one register write, whose value either mode takes from the random byte. -/
theorem rndLimitsTheRandomByte : Obligations.RndLimitsTheRandomByte := by
  intro x nn s
  obtain ⟨t, ht, hx, hframe⟩ := exec_of_setReg (rfl : exec (.rnd x nn) s = _)
  refine ⟨t, ht, fun hmode => ?_, fun hmode b => ?_, hframe⟩
  · rw [hx, hmode, rndResult_range_toNat]
  · rw [hx, hmode, rndResult, BitVec.getLsbD_and]

/-- The results of RND over all random bytes are those of `Rnd` under the mode of the state (R195). -/
theorem rnd_reaches_iff (x : Reg) (nn b : Byte) (s : State) :
    (∃ r t, exec (.rnd x nn) { s with draw := r } = .next t ∧ t.reg x = b) ↔
      ∃ r, rndResult s.config.rndMode nn r = b := by
  constructor
  · rintro ⟨r, t, ht, hb⟩
    cases ht
    rw [State.reg_setReg_self] at hb
    exact ⟨r, hb⟩
  · rintro ⟨r, hb⟩
    exact ⟨r, _, rfl, (State.reg_setReg_self _ _ _).trans hb⟩

/-- Settles O28: every result lies in the set, and each byte of the set is the result for itself as the random byte. -/
theorem rndReachesExactlyItsResultSet : Obligations.RndReachesExactlyItsResultSet := by
  intro x nn b s
  rw [rnd_reaches_iff]
  constructor <;> intro hmode <;> rw [hmode]
  · constructor
    · rintro ⟨r, rfl⟩
      rw [rndResult_range_toNat]
      exact Nat.le_of_lt_succ (Nat.mod_lt _ (Nat.succ_pos _))
    · intro hle
      exact ⟨b, BitVec.eq_of_toNat_eq
        ((rndResult_range_toNat nn b).trans (Nat.mod_eq_of_lt (Nat.lt_succ_of_le hle)))⟩
  · constructor
    · rintro ⟨r, rfl⟩
      rw [rndResult, BitVec.and_assoc, BitVec.and_self]
    · exact fun hbits => ⟨b, hbits⟩

/-! ### Jumps and subroutines -/

/-- Settles O30: JP takes an address of its field, JP V0 a sum that may leave memory. -/
theorem jumpsSetPc : Obligations.JumpsSetPc := by
  intro nnn s
  refine ⟨congrArg _ (s.jump_addr nnn), _, rfl, ?_⟩
  rw [State.jump_eq, State.setPc_eq, diagAfter_pcWrap]
  exact ⟨BitVec.toNat_ofNat .., rfl⟩

/-- Settles O33: the entry RET (O32) pops is the one CALL (O31) pushed. -/
theorem retResumesAfterItsCall : Obligations.RetResumesAfterItsCall := by
  intro nnn s t u hlegal hroom hcall hstack hsp
  obtain ⟨t', hcall', hsp', -, hentry, -⟩ := (callPushesTheNextAddress nnn s hlegal).1 hroom
  cases hcall.symm.trans hcall'
  have hu : u.sp = s.sp + 1 := hsp.trans hsp'
  have htop : u.stackEntry (u.sp - 1) = t.stackEntry s.sp := by
    rw [hu, Nat.add_sub_cancel, State.stackEntry, hstack, ← State.stackEntry]
  refine ⟨_, (retPopsIntoPc u).1 (by omega), ?_, ?_, rfl⟩
  · rw [htop, hentry]
  · rw [hu, Nat.add_sub_cancel]

/-! ### Draws that touch no pixel -/

/-- A sprite of no rows, or one that starts off the grid, covers no pixel of the grid (R254, R255). -/
theorem State.spriteCovers_eq_false (s : State) {x0 y0 n px py : Nat} (h : n = 0 ∨ 64 ≤ x0 ∨ 32 ≤ y0)
    (hx : px < 64) (hy : py < 32) : s.spriteCovers x0 y0 n px py = false := by
  rw [Bool.eq_false_iff, ne_eq, State.spriteCovers_iff]
  omega

/-- Settles O43: such a draw is a draw (O42) with no pixel covered. -/
theorem emptyAndOffGridDrawsTouchNoPixel : Obligations.EmptyAndOffGridDrawsTouchNoPixel := by
  intro x y n s h
  have hcovers {px py : Nat} := s.spriteCovers_eq_false (px := px) (py := py)
    (h.imp_left fun h0 => (congrArg BitVec.toNat h0 : n.toNat = 0))
  obtain ⟨t, ht, hpixel, hcollision, hle, -, hframe⟩ := drawTogglesExactlyTheCoveredPixels x y n s
  refine ⟨t, ht, Screen.ext_pixel fun px py hx hy => ?_, ?_, by rw [hframe], fun h0 => ?_⟩
  · rw [hpixel px py hx hy, hcovers hx hy, Bool.xor_false]
  · have hno : (t.reg 15).toNat ≠ 1 := fun h1 => by
      obtain ⟨px, py, hx, hy, hcov, -⟩ := hcollision.1 h1
      exact Bool.false_ne_true ((hcovers hx hy).symm.trans hcov)
    exact BitVec.eq_of_toNat_eq (show (t.reg 15).toNat = 0 by omega)
  · rw [hframe, h0]
    rfl

/-! ### Timers and keys -/

/-- Settles O44: each is one write of a register or a timer. -/
theorem timerTransfers : Obligations.TimerTransfers := fun _ _ => ⟨exec_of_setReg rfl, rfl, rfl⟩

theorem State.lowestKey_eq_none_iff (s : State) : s.lowestKey = none ↔ ∀ k : Fin 16, s.keys[k] = false := by
  rw [State.lowestKey, ← Fin.find?_eq_find?_finRange]
  exact Fin.find?_eq_none_iff

theorem State.lowestKey_eq_some_iff (s : State) (k : Fin 16) :
    s.lowestKey = some k ↔ s.keys[k] = true ∧ ∀ j, j < k → s.keys[j] = false := by
  rw [State.lowestKey, ← Fin.find?_eq_find?_finRange]
  exact Fin.find?_eq_some_iff

theorem exec_ldVxK_of_none {s : State} (x : Reg) (h : s.lowestKey = none) :
    exec (.ldVxK x) s = .next s.markNoAdvance := by
  rw [exec, execLdVxK, h]

theorem exec_ldVxK_of_some {s : State} (x : Reg) {k : Fin 16} (h : s.lowestKey = some k) :
    exec (.ldVxK x) s = .next (s.setReg x (BitVec.ofNat 8 k.val)) := by
  rw [exec, execLdVxK, h]

/-- Settles O45, by the two answers of the search for the lowest key. -/
theorem awaitKeyTakesTheLowestHeldKey : Obligations.AwaitKeyTakesTheLowestHeldKey := by
  intro x s
  constructor
  · exact fun hnone => exec_ldVxK_of_none x (s.lowestKey_eq_none_iff.2 hnone)
  · intro k hk hlow
    obtain ⟨t, ht, hx, hframe⟩ := exec_of_setReg (exec_ldVxK_of_some x ((s.lowestKey_eq_some_iff k).2 ⟨hk, hlow⟩))
    refine ⟨t, ht, ?_, hframe⟩
    rw [hx, BitVec.toNat_ofNat, Nat.mod_eq_of_lt (by omega)]

end Sys2Proof.Machine
end

section
/-!
PROOFS. The first and the later stages of a cycle as the spec writes them, and with them whole cycles: of any decoded
instruction, of a word without semantics, of a stack fault, of a wait for a key and of a jump to itself; so O9, O10,
O12, O46, O20 and O18.
-/
namespace Sys2Proof.Machine

variable {i : Instr} {s e t u : State}

/-! ### The stages -/

/-- The start of a cycle, its diagnostic by the one `PC` whose fetch wraps (R46, R64). -/
theorem State.beginCycle_eq_ite (s : State) :
    s.beginCycle = { s with
      noAdvance := false
      draw := Config.freeByte s.draws
      draws := s.draws + 1
      out := { fbChanged := false, soundTick := false, diag := if s.pc = 0xFFF then 0x04 else 0x00 } } := by
  rw [State.beginCycle_eq]
  simp only [diagAfter, pcLeavesMemory_succ_iff]
  rfl

/-- Stages 4 to 6 without a stack fault, as the spec writes them (R125 to R127). -/
theorem State.finishCycle_eq_ite (h : e.halted = false) :
    e.finishCycle = { e with
      pc := if e.noAdvance then e.pc else BitVec.ofNat 12 (e.pc.toNat + 2)
      dt := if e.dt = 0 then 0 else e.dt - 1
      st := if e.st = 0 then 0 else e.st - 1
      fbDirty := e.fbDirty || e.out.fbChanged
      noAdvance := false
      out := { fbChanged := e.out.fbChanged
               soundTick := e.out.soundTick || decide (e.st ≠ 0)
               diag := if e.noAdvance = false ∧ 4096 ≤ e.pc.toNat + 2 then e.out.diag ||| 0x04
                       else e.out.diag } } := by
  rw [State.finishCycle_running e h, State.advanceStage_eq]
  cases hna : e.noAdvance
  · rw [if_neg Bool.false_ne_true, State.setPc_eq, diagAfter_pcWrap, State.timerTail_eq]
    simp [State.endCycle]
  · rw [if_pos rfl, State.timerTail_eq]
    simp [State.endCycle]

/-- The cycle of a decoded instruction, by its three parts (R120). -/
theorem step_of_exec (hs : s.halted = false) (hd : decode s.fetchWord = .ok i)
    (he : exec i s.beginCycle = .next e) : step s = .next e.finishCycle := by
  rw [step_decoded hs hd, he]
  rfl

/-- Settles O9: the state at the start of the cycle is `beginCycle`, and what follows is `finishCycle`. -/
theorem stepRunsTheDecodedInstruction : Obligations.StepRunsTheDecodedInstruction := by
  intro s e i hs hd he
  rw [State.byte_mod] at hd
  rw [← State.beginCycle_eq_ite] at he
  have hstep := step_of_exec hs hd he
  constructor
  · intro hhalted
    rw [hstep, State.finishCycle_halted e hhalted]
  · intro hrunning
    rw [hstep, State.finishCycle_eq_ite hrunning]

/-! ### Cycles that advance by one instruction -/

/-- Where the fetch wraps, the advance wraps too, so that the two leave the report of the advance (R26, R64). -/
theorem diag_fetch_then_advance (pc : Addr) (m : Byte) :
    (if 4096 ≤ pc.toNat + 2 then ((if pc = 0xFFF then 0x04 else 0x00) ||| m) ||| 0x04
      else (if pc = 0xFFF then 0x04 else 0x00) ||| m) =
    if 4096 ≤ pc.toNat + 2 then m ||| 0x04 else m := by
  by_cases hpc : pc = 0xFFF
  · have hwrap : 4096 ≤ pc.toNat + 2 := by rw [hpc]; decide
    rw [if_pos hwrap, if_pos hwrap, if_pos hpc, BitVec.or_comm _ m, BitVec.or_assoc, BitVec.or_self]
  · rw [if_neg hpc]
    simp only [BitVec.ofNat_eq_ofNat, BitVec.zero_or]

/-- The cycle whose execute stage only reports a diagnostic (R128, R129). -/
theorem State.finishCycle_report (hs : s.halted = false) (d : Diag) :
    (s.beginCycle.report d).finishCycle =
      { s with
        pc := BitVec.ofNat 12 (s.pc.toNat + 2)
        dt := if s.dt = 0 then 0 else s.dt - 1
        st := if s.st = 0 then 0 else s.st - 1
        noAdvance := false
        out := { fbChanged := false, soundTick := decide (s.st ≠ 0)
                 diag := if 4096 ≤ s.pc.toNat + 2 then d.mask ||| 0x04 else d.mask }
        draw := Config.freeByte s.draws
        draws := s.draws + 1 } := by
  have hrun : (s.beginCycle.report d).halted = false := s.beginCycle_halted.trans hs
  rw [State.finishCycle_eq_ite hrun, State.beginCycle_eq_ite, ← diag_fetch_then_advance]
  simp [State.report]

/-- Settles O10: both words run the cycle of a report, each of its own diagnostic. -/
theorem wordsWithoutSemanticsAreNoOps : Obligations.WordsWithoutSemanticsAreNoOps := by
  refine fun s => ⟨fun nnn => rfl, fun d hd hs => ?_⟩
  obtain ⟨rfl, err, herr⟩ | ⟨rfl, nnn, hnnn⟩ := hd
  · rw [step_unrecognized hs herr]
    exact congrArg _ (State.finishCycle_report hs .unknownOpcode)
  · rw [step_of_exec hs hnnn rfl]
    exact congrArg _ (State.finishCycle_report hs .sysIgnored)

/-! ### The stack fault -/

/-- The cycle of an instruction that meets its stack fault ends with the fault (R130). -/
theorem step_of_stackFault {f : StackFault} (hs : s.halted = false) (hd : decode s.fetchWord = .ok i)
    (hf : i.stackFault s = some f) : step s = .next (s.beginCycle.raiseStackFault f) := by
  have hf' : i.stackFault s.beginCycle = some f := by rw [State.beginCycle_eq]; exact hf
  rw [step_of_exec hs hd (exec_of_stackFault hf').1, State.finishCycle_halted _ rfl]

/-- Beside the diagnostic of the fault only the PC_WRAP of the fetch can stand (R302, R310). -/
theorem State.raiseStackFault_beginCycle (s : State) (f : StackFault) :
    s.beginCycle.raiseStackFault f =
      { s with
        halted := true, fault := f.code, noAdvance := false
        out := { fbChanged := false, soundTick := false
                 diag := if s.pc = 0xFFF then 0x04 ||| f.diag.mask else f.diag.mask }
        draw := Config.freeByte s.draws
        draws := s.draws + 1 } := by
  rw [State.beginCycle_eq_ite, State.raiseStackFault, State.report]
  simp only [apply_ite (· ||| f.diag.mask), BitVec.ofNat_eq_ofNat, BitVec.zero_or]

/-- Settles O12, by the fault of each instruction. -/
theorem stackFaultIsPrecise : Obligations.StackFaultIsPrecise := by
  refine fun s hs => ⟨fun nnn hd hsp => ?_, fun hd hsp => ?_⟩
  · rw [step_of_stackFault hs hd (if_pos hsp), State.raiseStackFault_beginCycle]
    rfl
  · rw [step_of_stackFault hs hd (if_pos hsp), State.raiseStackFault_beginCycle]
    rfl

/-! ### The wait for a key -/

theorem State.lowestKey_beginCycle (s : State) : s.beginCycle.lowestKey = s.lowestKey := by
  rw [State.beginCycle_eq]
  rfl

/-- The cycle whose execute stage only keeps `PC` where it is (R124). -/
theorem State.finishCycle_stay (hs : s.halted = false) :
    s.beginCycle.markNoAdvance.finishCycle =
      { s with
        dt := if s.dt = 0 then 0 else s.dt - 1
        st := if s.st = 0 then 0 else s.st - 1
        noAdvance := false
        out := { fbChanged := false, soundTick := decide (s.st ≠ 0)
                 diag := if s.pc = 0xFFF then 0x04 else 0x00 }
        draw := Config.freeByte s.draws
        draws := s.draws + 1 } := by
  have hrun : s.beginCycle.markNoAdvance.halted = false := s.beginCycle_halted.trans hs
  rw [State.finishCycle_eq_ite hrun, State.beginCycle_eq_ite]
  simp [State.markNoAdvance]

/-- The cycle whose execute stage only writes a register (R120). -/
theorem State.finishCycle_setReg (hs : s.halted = false) (x : Reg) (b : Byte) :
    (s.beginCycle.setReg x b).finishCycle =
      { s with
        v := s.v.set x b
        pc := BitVec.ofNat 12 (s.pc.toNat + 2)
        dt := if s.dt = 0 then 0 else s.dt - 1
        st := if s.st = 0 then 0 else s.st - 1
        noAdvance := false
        out := { fbChanged := false, soundTick := decide (s.st ≠ 0)
                 diag := if 4096 ≤ s.pc.toNat + 2 then 0x04 else 0x00 }
        draw := Config.freeByte s.draws
        draws := s.draws + 1 } := by
  have hrun : (s.beginCycle.setReg x b).halted = false := s.beginCycle_halted.trans hs
  have hdiag := diag_fetch_then_advance s.pc 0
  rw [State.finishCycle_eq_ite hrun, State.beginCycle_eq_ite]
  simpa [State.setReg] using hdiag

/-- Settles O46: with no key held the cycle stays, and with a lowest key it writes that key (O45). -/
theorem keyWaitOnlyTicksTheTimers : Obligations.KeyWaitOnlyTicksTheTimers := by
  refine fun x s hs hd => ⟨fun hnone => ?_, fun k hk hlow => ?_⟩
  · have hkey : s.beginCycle.lowestKey = none := s.lowestKey_beginCycle.trans (s.lowestKey_eq_none_iff.2 hnone)
    rw [step_of_exec hs hd (exec_ldVxK_of_none x hkey), State.finishCycle_stay hs]
  · have hkey : s.beginCycle.lowestKey = some k :=
      s.lowestKey_beginCycle.trans ((s.lowestKey_eq_some_iff k).2 ⟨hk, hlow⟩)
    have hval : (BitVec.ofNat 8 k.val).toNat = k.val := by
      rw [BitVec.toNat_ofNat, Nat.mod_eq_of_lt (by omega)]
    refine ⟨_, step_of_exec hs hd (exec_ldVxK_of_some x hkey), ?_⟩
    rw [State.finishCycle_setReg hs]
    exact ⟨(congrArg BitVec.toNat (s.reg_setReg_self x _)).trans hval, fun j hj => s.reg_setReg_ne hj _, rfl⟩

/-! ### The end of a run -/

/-- The cycle of a jump to its own address stays (R153). -/
theorem step_of_selfJump (hs : s.halted = false) (hd : decode s.fetchWord = .ok (.jp s.pc)) :
    step s = .next s.beginCycle.markNoAdvance.finishCycle := by
  have hpc : s.beginCycle.pc = s.pc := by rw [State.beginCycle_eq]
  have hjump : exec (.jp s.pc) s.beginCycle = .next s.beginCycle.markNoAdvance := by
    rw [exec, execJp, State.jump_addr, ← hpc]
    rfl
  exact step_of_exec hs hd hjump

theorem State.runEnded_iff (s : State) :
    s.runEnded = true ↔ s.halted = true ∨ s.fetchWord = packA 0x1#4 s.pc := by
  simp [State.runEnded]

/-- One cycle after the end of a run: it has ended still, and the cycle changed nothing of the program's (R372). -/
theorem step_of_runEnded (hs : s.runEnded = true) (h : step s = .next t) :
    t.runEnded = true ∧ t.pc = s.pc ∧ t.v = s.v ∧ t.mem = s.mem ∧ t.fb = s.fb := by
  cases hh : s.halted with
  | true =>
    cases (step_halted hh).symm.trans h
    exact ⟨(State.runEnded_iff _).2 (.inl hh), rfl, rfl, rfl, rfl⟩
  | false =>
    have hfetch : s.fetchWord = packA 0x1#4 s.pc := by simpa [hh] using s.runEnded_iff.1 hs
    have hd : decode s.fetchWord = .ok (.jp s.pc) := by rw [hfetch]; exact decode_encode (.jp s.pc) rfl
    cases (step_of_selfJump hh hd).symm.trans h
    rw [State.finishCycle_stay hh]
    exact ⟨(State.runEnded_iff _).2 (.inr hfetch), rfl, rfl, rfl, rfl⟩

/-- Settles O20: the cycle of the jump stays, and by induction on the run so does every later one. -/
theorem selfJumpEndsTheRun : Obligations.SelfJumpEndsTheRun := by
  constructor
  · intro s hs hd
    rw [step_of_selfJump hs hd, State.finishCycle_stay hs]
  · intro k
    induction k with
    | zero =>
      intro s t hs h
      cases h
      exact ⟨hs, rfl, rfl, rfl, rfl⟩
    | succ k ih =>
      intro s t hs h
      obtain ⟨r, hr, hrun⟩ := core_run_cases k h
      obtain ⟨hended, hpc, hv, hmem, hfb⟩ := step_of_runEnded hs hr
      obtain ⟨hended', hpc', hv', hmem', hfb'⟩ := ih r t hended hrun
      exact ⟨hended', hpc'.trans hpc, hv'.trans hv, hmem'.trans hmem, hfb'.trans hfb⟩

/-! ### The delay timer over a run -/

/-- A run that ends in a block not halted began in one. -/
theorem running_of_run (k : Nat) (h : Sys2Proof.core.run k s = .next u) (hu : u.halted = false) :
    s.halted = false := by
  cases k with
  | zero => cases h; exact hu
  | succ k =>
    rw [Bool.eq_false_iff]
    intro hs
    cases (run_halted k hs).symm.trans h
    exact Bool.false_ne_true (hu.symm.trans hs)

/-- A cycle of a word other than LD DT that does not end halted takes 1 from the delay timer (O17). -/
theorem step_dt (hs : s.halted = false) (h : step s = .next t) (ht : t.halted = false)
    (hd : ∀ x, decode s.fetchWord ≠ .ok (.ldDtVx x)) : t.dt.toNat = s.dt.toNat - 1 := by
  obtain ⟨hdt, -, -⟩ := timersCountEveryCycle s t hs h ht
  rw [hdt]
  split
  case h_1 x hx => exact absurd hx (hd x)
  case h_2 => rfl

/-- Settles O18, by induction on the number of cycles. -/
theorem delayTimerRunsDown : Obligations.DelayTimerRunsDown := by
  intro k
  induction k with
  | zero =>
    intro s u _ h _ _
    cases h
    rfl
  | succ k ih =>
    intro s u hs h hu hno
    obtain ⟨t, ht, hrun⟩ := core_run_cases k h
    have hrunning := running_of_run k hrun hu
    have hfirst := step_dt hs ht hrunning fun x => hno 0 s x (Nat.succ_pos k) rfl
    have hrest := ih t u hrunning hrun hu fun j r x hj hr =>
      hno (j + 1) r x (Nat.succ_lt_succ hj) ((core_run_succ j ht).trans hr)
    omega

end Sys2Proof.Machine
end

section
/-!
PROOFS. What the execute stage of every instruction leaves of each piece of state, what it answers, and what of that a
whole step keeps; with them O50, O51, O47, O49, O14, O13 and O15.
-/
namespace Sys2Proof

open Sys2Proof.Machine

/-- What `STACK` holds after the execute stage: CALL with room writes its return address at `SP` (R154). -/
def Instr.stackAfter (i : Instr) (s : State) : List Addr :=
  match i with
  | .call _ =>
    if s.sp = s.config.stackDepth then s.stack else s.stack.set s.sp (BitVec.ofNat 12 (s.pc.toNat + 2))
  | _ => s.stack

/-- What `SP` is after the execute stage: a push, a pop, or as it was (R152, R154). -/
def Instr.spAfter (i : Instr) (s : State) : Nat :=
  match i with
  | .call _ => if s.sp = s.config.stackDepth then s.sp else s.sp + 1
  | .ret => s.sp - 1
  | _ => s.sp

/-- What `MEM` is after the execute stage: that of the block store, where the instruction is one (R66). -/
def Instr.memAfter (i : Instr) (s : State) : Memory :=
  match i with
  | .ldB x => (s.storeBlock (bcdDigit (s.reg x)) 3).mem
  | .storeRegs x => (s.storeBlock (fun k => s.reg (blockReg k)) (x.val + 1)).mem
  | _ => s.mem

/-- The instructions that write `I`: LD I, ADD I and LD F (R28). -/
def Instr.writesIndex : Instr → Bool
  | .ldI _ | .addI _ | .ldF _ => true
  | _ => false

/-- Does the instruction write register `j` this time? LD Vx, K does not while it waits (R23, R274). -/
def Instr.writesRegNow (i : Instr) (s : State) (j : Reg) : Bool := i.writesReg j && !i.setsNoAdvance s

namespace Machine

variable {i : Instr} {s e t : State}

/-! ### Memory, the stack, the index register and the fault -/

/-- The execute stage, on memory, the stack, `SP`, `I` and `FAULT`. -/
theorem exec_frame (h : exec i s = .next e) :
    e.mem = i.memAfter s ∧ e.stack = i.stackAfter s ∧ e.sp = i.spAfter s ∧ (i.writesIndex = false → e.i = s.i) ∧
      (i.stackFault s = none → e.fault = s.fault) := by
  cases i with
  | cls | drw => rw [exec_eq_of_marksFbChanged rfl h]; exact ⟨rfl, rfl, rfl, fun _ => rfl, fun _ => rfl⟩
  | ldImm | addImm | ldReg | orReg | andReg | xorReg | addReg | subReg | shr | subnReg | shl | rnd | ldVxDt | ldDtVx
  | ldStVx | sys => cases h; exact ⟨rfl, rfl, rfl, fun _ => rfl, fun _ => rfl⟩
  | ldI | ldF => cases h; exact ⟨rfl, rfl, rfl, nofun, fun _ => rfl⟩
  | seImm | sneImm | seReg | sneReg | skp | sknp =>
    cases h; rw [State.skipIf_frame]; exact ⟨rfl, rfl, rfl, fun _ => rfl, fun _ => rfl⟩
  | jp | jpV0 => cases h; rw [State.jump_frame]; exact ⟨rfl, rfl, rfl, fun _ => rfl, fun _ => rfl⟩
  | ldB | storeRegs => cases h; rw [State.storeBlock_eq]; exact ⟨rfl, rfl, rfl, fun _ => rfl, fun _ => rfl⟩
  | loadRegs => cases h; rw [State.loadBlock_eq]; exact ⟨rfl, rfl, rfl, fun _ => rfl, fun _ => rfl⟩
  | addI => cases h; rw [State.reportIf_eq]; exact ⟨rfl, rfl, rfl, nofun, fun _ => rfl⟩
  | ldVxK =>
    rw [exec, execLdVxK] at h
    split at h <;> cases h <;> exact ⟨rfl, rfl, rfl, fun _ => rfl, fun _ => rfl⟩
  | ret =>
    obtain hsp | hsp := s.sp.eq_zero_or_pos
    · have hempty : s.sp = s.sp - 1 := by omega
      cases (exec_ret_of_zero hsp).symm.trans h
      exact ⟨rfl, rfl, hempty, fun _ => rfl, fun hf => nomatch (if_pos hsp).symm.trans hf⟩
    · cases (exec_ret_of_pos hsp).symm.trans h
      exact ⟨rfl, rfl, rfl, fun _ => rfl, fun _ => rfl⟩
  | call =>
    rw [exec, execCall] at h
    rw [Instr.stackAfter, Instr.spAfter, Instr.stackFault]
    split at h <;> rename_i hsp <;> cases h
    · rw [if_pos hsp, if_pos hsp, if_pos hsp]
      exact ⟨rfl, rfl, rfl, fun _ => rfl, nofun⟩
    · rw [if_neg hsp, if_neg hsp, State.jump_frame, State.reportIf_eq]
      exact ⟨rfl, rfl, rfl, fun _ => rfl, fun _ => rfl⟩

/-- Settles O50: what the stack and `SP` are after the execute stage shows who writes them. -/
theorem onlyTheirInstructionsWriteIndexAndStack : Obligations.OnlyTheirInstructionsWriteIndexAndStack := by
  intro i s t h
  obtain ⟨-, hstack, hsp, hindex, -⟩ := exec_frame h
  refine ⟨fun hi => hindex ?_, fun hi => hstack.trans ?_, fun hi => hsp.trans ?_⟩
  · cases i with
    | ldI nnn => exact absurd rfl (hi nnn 0).1
    | addI x => exact absurd rfl (hi 0 x).2.1
    | ldF x => exact absurd rfl (hi 0 x).2.2
    | _ => rfl
  · cases i with
    | call nnn => exact absurd rfl (hi nnn)
    | _ => rfl
  · cases i with
    | call nnn => exact absurd rfl (hi nnn).1
    | ret => exact absurd rfl (hi 0).2
    | _ => rfl

/-! ### The rest of the state -/

/-- No instruction writes the keys, `FB_DIRTY`, the random byte, its count or the parameters. -/
theorem exec_unwritten (h : exec i s = .next e) :
    e.keys = s.keys ∧ e.fbDirty = s.fbDirty ∧ e.draw = s.draw ∧ e.draws = s.draws ∧ e.config = s.config := by
  cases hi : i.marksFbChanged
  · rw [exec_eq_of_not_marksFbChanged hi h]
    exact ⟨rfl, rfl, rfl, rfl, rfl⟩
  · rw [exec_eq_of_marksFbChanged hi h]
    exact ⟨rfl, rfl, rfl, rfl, rfl⟩

theorem exec_config (h : exec i s = .next e) : e.config = s.config := by
  obtain ⟨-, -, -, -, hconfig⟩ := exec_unwritten h
  exact hconfig

/-- Only the jumps and a waiting LD Vx, K set `no_advance`, and a stack fault leaves it (R124, R310). -/
theorem exec_noAdvance (h : exec i s = .next e) (hset : i.setsNoAdvance s = false) : e.noAdvance = s.noAdvance := by
  cases hf : i.stackFault s with
  | some f =>
    obtain ⟨hexec, -⟩ := exec_of_stackFault hf
    cases hexec.symm.trans h
    rfl
  | none =>
    obtain ⟨-, -, hna, -⟩ := exec_running hf h
    rw [hna, hset, Bool.false_or]

/-- Settles O51, piece by piece. -/
theorem onlyTheirInstructionsWriteTheRest : Obligations.OnlyTheirInstructionsWriteTheRest := by
  intro i s t h
  obtain ⟨hkeys, hdirty, hdraw, hdraws, hconfig⟩ := exec_unwritten h
  obtain ⟨hdt, hst⟩ := exec_timers h
  obtain ⟨-, -, -, -, hfault⟩ := exec_frame h
  have hhalted (hf : i.stackFault s = none) : t.halted = s.halted := by
    obtain ⟨-, hhalted, -, -⟩ := exec_running hf h
    exact hhalted
  refine ⟨fun hi => ?_, fun hi => hdt.trans ?_, fun hi => hst.trans ?_, fun hf => ⟨hhalted hf, hfault hf⟩,
    exec_noAdvance h, hkeys, hdirty, exec_soundTick h, hdraw, hdraws,
    hconfig⟩
  · have hmark : i.marksFbChanged = false := by
      rw [Bool.eq_false_iff, ne_eq, Instr.marksFbChanged_iff]
      rintro (hcls | ⟨x, y, n, hdrw⟩)
      · exact (hi 0 0 0).1 hcls
      · exact (hi x y n).2 hdrw
    rw [exec_eq_of_not_marksFbChanged hmark h]
    exact ⟨rfl, rfl⟩
  · cases i with
    | ldDtVx x => exact absurd rfl (hi x)
    | _ => rfl
  · cases i with
    | ldStVx x => exact absurd rfl (hi x)
    | _ => rfl

/-! ### Registers -/

theorem writesRegNow_eq_false_iff (i : Instr) (s : State) (j : Reg) :
    i.writesRegNow s j = false ↔ i.writesReg j = false ∨ i.setsNoAdvance s = true := by
  rw [Instr.writesRegNow, Bool.and_eq_false_iff, Bool.not_eq_false']

/-- A register that the instruction does not write this time stands. -/
theorem exec_reg_unwritten (h : exec i s = .next e) {j : Reg} (hj : i.writesRegNow s j = false) :
    e.reg j = s.reg j := by
  cases i with
  | ldImm x | addImm x | ldReg x | orReg x | andReg x | xorReg x | rnd x | ldVxDt x =>
    cases h
    have hne : j ≠ x := by simpa [Instr.writesRegNow, Instr.writesReg, Instr.setsNoAdvance] using hj
    exact s.reg_setReg_ne hne _
  | addReg x | subReg x | shr x | subnReg x | shl x =>
    cases h
    obtain ⟨hne, hvf⟩ : j ≠ x ∧ j ≠ Reg.vf := by
      simpa [Instr.writesRegNow, Instr.writesReg, Instr.setsNoAdvance] using hj
    rw [State.reg_setRegFlag, if_neg hvf, if_neg hne]
  | drw =>
    cases h
    have hvf : j ≠ Reg.vf := by simpa [Instr.writesRegNow, Instr.writesReg, Instr.setsNoAdvance] using hj
    exact (State.reg_setFlag_ne _ _ hvf).trans (s.drawRows_reg _ _ _ j)
  | loadRegs x =>
    cases h
    have hlt : ¬ j ≤ x := by simpa [Instr.writesRegNow, Instr.writesReg, Instr.setsNoAdvance] using hj
    rw [s.loadBlock_reg _ x.isLt, if_neg (mt Nat.le_of_lt_succ hlt)]
  | ldVxK x =>
    rw [writesRegNow_eq_false_iff, setsNoAdvance_ldVxK] at hj
    cases hkey : s.lowestKey with
    | none => cases (exec_ldVxK_of_none x hkey).symm.trans h; rfl
    | some k =>
      cases (exec_ldVxK_of_some x hkey).symm.trans h
      have hne : j ≠ x := by simpa [Instr.writesReg, hkey] using hj
      exact s.reg_setReg_ne hne _
  | cls | sys | ldI | ldF | ldDtVx | ldStVx => cases h; rfl
  | seImm | sneImm | seReg | sneReg | skp | sknp => cases h; rw [State.skipIf_frame]; rfl
  | jp | jpV0 => cases h; rw [State.jump_frame]; rfl
  | ldB | storeRegs => cases h; rw [State.storeBlock_eq]; rfl
  | addI => cases h; rw [State.reportIf_eq]; rfl
  | ret =>
    rw [exec, execRet] at h
    split at h <;> cases h
    · rfl
    · rw [State.jump_frame]; rfl
  | call =>
    rw [exec, execCall] at h
    split at h <;> cases h
    · rfl
    · rw [State.jump_frame, State.reportIf_eq]; rfl

/-- Settles O47: a register that is never written is not written this time. -/
theorem onlyTheNamedRegistersAreWritten : Obligations.OnlyTheNamedRegistersAreWritten := fun i s _ h j hj =>
  exec_reg_unwritten h ((writesRegNow_eq_false_iff i s j).2 (.inl hj))

/-! ### Bytes -/

/-- A byte outside those the instruction stores to is in memory after it what it was before. -/
theorem read_memAfter (i : Instr) (s : State) {a : Nat} (ha : a < 4096) (hout : a ∉ i.storedAddrs s) :
    Memory.read s.config.font (i.memAfter s) a = Memory.read s.config.font s.mem a := by
  have hblock (f : Nat → Byte) (n : Nat) (hn : a ∉ (List.range n).map fun k => reduceAddr (s.indexAddr k)) :
      Memory.read s.config.font (s.storeBlock f n).mem a = Memory.read s.config.font s.mem a := by
    have hbyte := s.storeBlock_byte_ne f n a fun k hk hak =>
      hn (List.mem_map.2 ⟨k, List.mem_range.2 hk, hak.symm.trans (reduceAddr_of_lt ha)⟩)
    rwa [State.byte, State.byte, reduceAddr_of_lt ha, State.storeBlock_eq] at hbyte
  cases i with
  | ldB | storeRegs => exact hblock _ _ hout
  | _ => rfl

/-- Settles O49: memory after the execute stage is that of the block store, if any. -/
theorem onlyTheNamedBytesAreStored : Obligations.OnlyTheNamedBytesAreStored := by
  intro i s t h a ha hout
  obtain ⟨hmem, -⟩ := exec_frame h
  rw [State.byte, State.byte, exec_config h, hmem, reduceAddr_of_lt ha, read_memAfter i s ha hout]

/-! ### Every operation answers -/

theorem exec_answers (i : Instr) (s : State) : ∃ t, exec i s = .next t := by
  cases i with
  | call | ret =>
    simp only [exec, execCall, execRet]
    split <;> exact ⟨_, rfl⟩
  | ldVxK x =>
    cases hkey : s.lowestKey with
    | none => exact ⟨_, exec_ldVxK_of_none x hkey⟩
    | some k => exact ⟨_, exec_ldVxK_of_some x hkey⟩
  | _ => exact ⟨_, rfl⟩

theorem step_answers (s : State) : ∃ t, step s = .next t := by
  cases hs : s.halted with
  | true => exact ⟨_, step_halted hs⟩
  | false =>
    cases hd : decode s.fetchWord with
    | error err => exact ⟨_, step_unrecognized hs hd⟩
    | ok i =>
      obtain ⟨e, he⟩ := exec_answers i s.beginCycle
      exact ⟨_, step_of_exec hs hd he⟩

theorem operate_answers (op : Operation) (s : State) : ∃ r, operate op s = .next r := by
  cases op with
  | cycle =>
    obtain ⟨t, ht⟩ := step_answers s
    exact ⟨(.cycled t.out, t), by rw [operate, ht, cycleReply]⟩
  | _ => exact ⟨_, rfl⟩

theorem operateAll_cons {op : Operation} {ops : List Operation} {r : Reply × State} (h : operate op s = .next r) :
    operateAll (op :: ops) s = operateAll ops r.2 := by
  rw [operateAll, h]

theorem operateAll_answers (ops : List Operation) (s : State) : ∃ t, operateAll ops s = .next t := by
  induction ops generalizing s with
  | nil => exact ⟨s, rfl⟩
  | cons op ops ih =>
    obtain ⟨r, hr⟩ := operate_answers op s
    obtain ⟨t, ht⟩ := ih r.2
    exact ⟨t, (operateAll_cons hr).trans ht⟩

/-- Settles O14, operation by operation. -/
theorem everyOperationAnswersANextState : Obligations.EveryOperationAnswersANextState := fun s =>
  ⟨step_answers s, fun i => exec_answers i s, fun ops => operateAll_answers ops s⟩

/-! ### The status and the program counter after a step -/

theorem stackFault_beginCycle (i : Instr) (s : State) : i.stackFault s.beginCycle = i.stackFault s := by
  rw [State.beginCycle_eq]
  rfl

/-- The cycle of an instruction that meets no stack fault runs its later stages (R120). -/
theorem step_of_no_stackFault (hs : s.halted = false) (hd : decode s.fetchWord = .ok i) (hf : i.stackFault s = none)
    (h : step s = .next t) :
    ∃ e, exec i s.beginCycle = .next e ∧ e.halted = false ∧ t = e.finishCycle := by
  obtain ⟨e, he⟩ := exec_answers i s.beginCycle
  obtain ⟨-, hhalted, -, -⟩ := exec_running ((stackFault_beginCycle i s).trans hf) he
  cases (step_of_exec hs hd he).symm.trans h
  exact ⟨e, he, hhalted.trans (s.beginCycle_halted.trans hs), rfl⟩

theorem State.finishCycle_status (e : State) : e.finishCycle.halted = e.halted ∧ e.finishCycle.fault = e.fault := by
  rw [State.finishCycle_eq]
  exact ⟨rfl, rfl⟩

/-- A step that meets no stack fault leaves the status as it was. -/
theorem step_status_of_no_stackFault (hs : s.halted = false) (h : step s = .next t)
    (hf : ∀ i, decode s.fetchWord = .ok i → i.stackFault s = none) : t.halted = false ∧ t.fault = s.fault := by
  cases hd : decode s.fetchWord with
  | error err =>
    cases (step_unrecognized hs hd).symm.trans h
    obtain ⟨hhalted, hfault⟩ := s.beginCycle.executeUnrecognized.finishCycle_status
    rw [hhalted, hfault, State.beginCycle_eq]
    exact ⟨hs, rfl⟩
  | ok i =>
    obtain ⟨e, he, hhalted, rfl⟩ := step_of_no_stackFault hs hd (hf i hd) h
    obtain ⟨-, -, -, -, hfault⟩ := exec_frame he
    obtain ⟨hhalted', hfault'⟩ := e.finishCycle_status
    rw [hhalted', hfault', hfault ((stackFault_beginCycle i s).trans (hf i hd)), State.beginCycle_eq]
    exact ⟨hhalted, rfl⟩

/-- Settles O13: the step either meets a stack fault, and ends with it (O12), or leaves the status as it was. -/
theorem onlyStackFaultsHalt : Obligations.OnlyStackFaultsHalt := by
  intro s t hs h
  by_cases hfaults : ∃ i f, decode s.fetchWord = .ok i ∧ i.stackFault s = some f
  · obtain ⟨i, f, hd, hf⟩ := hfaults
    cases (step_of_stackFault hs hd hf).symm.trans h
    refine ⟨iff_of_true rfl ⟨i, f, hd, hf⟩, fun i' f' hd' hf' => ?_, nofun⟩
    cases hd.symm.trans hd'
    cases hf.symm.trans hf'
    cases f <;> rfl
  · obtain ⟨hhalted, hfault⟩ := step_status_of_no_stackFault hs h fun i hd =>
      Option.eq_none_iff_forall_ne_some.2 fun f hf => hfaults ⟨i, f, hd, hf⟩
    exact ⟨iff_of_false (by simp [hhalted]) hfaults, fun i f hd hf => absurd ⟨i, f, hd, hf⟩ hfaults, fun _ => hfault⟩

/-- The execute stage alone moves `PC` where no advance follows (R124): to where execution goes on. -/
theorem exec_pc_of_setsNoAdvance (h : exec i s = .next e) (hset : i.setsNoAdvance s = true)
    (hf : i.stackFault s = none) : e.pc.toNat = i.nextPc s % 4096 := by
  have haddr (a : Addr) : a.toNat = a.toNat % 4096 := (Nat.mod_eq_of_lt a.isLt).symm
  cases i with
  | jp nnn => cases h; rw [State.jump_addr]; exact haddr nnn
  | jpV0 nnn => cases h; exact BitVec.toNat_ofNat ..
  | call nnn =>
    have hsp : s.sp ≠ s.config.stackDepth := by simpa [Instr.stackFault] using hf
    rw [exec, execCall, if_neg hsp] at h
    cases h
    rw [State.jump_addr]
    exact haddr nnn
  | ret =>
    have hsp : s.sp ≠ 0 := by simpa [Instr.stackFault] using hf
    cases (exec_ret_of_pos (Nat.pos_of_ne_zero hsp)).symm.trans h
    exact haddr _
  | ldVxK x =>
    have hkey : s.lowestKey = none := by simpa [setsNoAdvance_ldVxK] using hset
    cases (exec_ldVxK_of_none x hkey).symm.trans h
    rw [Instr.nextPc, if_pos (of_decide_eq_true hset)]
    exact haddr s.pc
  | _ => cases hset

/-- The start of a cycle changes nothing that decides where execution goes on. -/
theorem nextPc_beginCycle (i : Instr) (s : State) :
    i.nextPc s.beginCycle = i.nextPc s ∧ i.setsNoAdvance s.beginCycle = i.setsNoAdvance s := by
  rw [State.beginCycle_eq]
  cases i <;> exact ⟨rfl, rfl⟩

/-- Settles O15: where the instruction sets `no_advance` its execute stage has moved `PC`; else the advance stage
follows its skip, if any. -/
theorem pcAfterEveryInstruction : Obligations.PcAfterEveryInstruction := by
  intro s t i hs hd hf h
  obtain ⟨e, he, hrun, rfl⟩ := step_of_no_stackFault hs hd hf h
  have hf' := (stackFault_beginCycle i s).trans hf
  obtain ⟨-, -, hna, hpc⟩ := exec_running hf' he
  have hna' : s.beginCycle.noAdvance = false := by rw [State.beginCycle_eq]
  rw [hna', Bool.or_false] at hna
  rw [← (nextPc_beginCycle i s).1, State.finishCycle_eq_ite hrun, hna]
  cases hset : i.setsNoAdvance s.beginCycle with
  | true =>
    have hjump := exec_pc_of_setsNoAdvance he hset hf'
    exact hjump
  | false =>
    obtain ⟨-, -, hnext⟩ := nextPc_of_advances hset
    rw [hnext, hpc hset, State.skipIf_pc]
    cases i.skips s.beginCycle
    · exact BitVec.toNat_ofNat ..
    · simp only [if_true, Bool.false_eq_true, if_false, BitVec.toNat_ofNat]
      omega

end Machine
end Sys2Proof
end

section
/-!
PROOFS. The invariant: reset meets it, and every step and every other operation of the host keeps it, piece by piece;
with them O54, O55 and O56.
-/
namespace Sys2Proof.Machine

variable {i : Instr} {s e t : State}

/-! ### Memory and the stack -/

/-- The two pieces of the invariant that the execute stage can touch: canonical memory and a legal stack. -/
def State.MemStackLegal (s : State) : Prop := Memory.wf s.config.font s.mem = true ∧ s.StackLegal

/-- A block store keeps memory canonical, and no other instruction writes it. -/
theorem wf_memAfter (i : Instr) (h : Memory.wf s.config.font s.mem = true) :
    Memory.wf s.config.font (i.memAfter s) = true := by
  cases i with
  | ldB | storeRegs => exact s.storeBlock_wf h _ _
  | _ => exact h

/-- A push keeps the depth of the stack and happens only below it; a pop lowers `SP` (R30). -/
theorem stackAfter_legal (i : Instr) (h : s.StackLegal) :
    (i.stackAfter s).length = s.config.stackDepth ∧ i.spAfter s ≤ s.config.stackDepth := by
  obtain ⟨hlen, hsp⟩ := h
  cases i with
  | call nnn =>
    rw [Instr.stackAfter, Instr.spAfter]
    split
    · exact ⟨hlen, hsp⟩
    · rw [List.length_set]
      exact ⟨hlen, by omega⟩
  | ret => exact ⟨hlen, (Nat.sub_le _ _).trans hsp⟩
  | _ => exact ⟨hlen, hsp⟩

theorem exec_memStackLegal (h : exec i s = .next e) (hs : s.MemStackLegal) : e.MemStackLegal := by
  obtain ⟨hwf, hlegal⟩ := hs
  obtain ⟨hmem, hstack, hsp, -, -⟩ := exec_frame h
  unfold State.MemStackLegal State.StackLegal
  rw [hmem, hstack, hsp, exec_config h]
  exact ⟨wf_memAfter i hwf, stackAfter_legal i hlegal⟩

theorem State.beginCycle_memStackLegal (h : s.MemStackLegal) : s.beginCycle.MemStackLegal := by
  rw [State.beginCycle_eq]
  exact h

theorem State.finishCycle_memStackLegal (h : e.MemStackLegal) : e.finishCycle.MemStackLegal := by
  rw [State.finishCycle_eq]
  exact h

theorem step_memStackLegal (h : step s = .next t) (hs : s.MemStackLegal) : t.MemStackLegal := by
  obtain ⟨-, rfl⟩ | ⟨-, i, e, -, he, rfl⟩ | ⟨-, err, -, rfl⟩ := step_cases h
  · exact hs
  · exact State.finishCycle_memStackLegal (exec_memStackLegal he (State.beginCycle_memStackLegal hs))
  · exact State.finishCycle_memStackLegal (State.beginCycle_memStackLegal hs)

/-! ### The other pieces -/

/-- The status stays a legal pair: only a stack fault halts the block, with its own code (O13). -/
theorem step_statusLegal (hs : s.halted = false) (h : step s = .next t) (hlegal : s.StatusLegal) : t.StatusLegal := by
  obtain ⟨hfaults, hcode, hkept⟩ := onlyStackFaultsHalt s t hs h
  cases ht : t.halted with
  | true =>
    obtain ⟨i, f, hd, hf⟩ := hfaults.1 ht
    rw [State.StatusLegal, ht, hcode i f hd hf]
    cases f <;> decide
  | false =>
    rw [State.StatusLegal, hkept ht, ht, ← hs]
    exact hlegal

/-- No cycle keeps `no_advance`: a stack fault comes before it is set, and the last stage clears it (R41). -/
theorem step_noAdvance (hs : s.halted = false) (h : step s = .next t) : t.noAdvance = false := by
  have hbegin : s.beginCycle.noAdvance = false := by rw [State.beginCycle_eq]
  cases hd : decode s.fetchWord with
  | error err =>
    cases (step_unrecognized hs hd).symm.trans h
    have hrun : s.beginCycle.executeUnrecognized.halted = false := s.beginCycle_halted.trans hs
    rw [State.finishCycle_running _ hrun]
    rfl
  | ok i =>
    cases hf : i.stackFault s with
    | some f =>
      cases (step_of_stackFault hs hd hf).symm.trans h
      exact hbegin
    | none =>
      obtain ⟨e, -, hrun, rfl⟩ := step_of_no_stackFault hs hd hf h
      rw [State.finishCycle_running _ hrun]
      rfl

theorem step_config (h : step s = .next t) : t.config = s.config := by
  have hbegin : s.beginCycle.config = s.config := by rw [State.beginCycle_eq]
  obtain ⟨-, rfl⟩ | ⟨-, i, e, -, he, rfl⟩ | ⟨-, err, -, rfl⟩ := step_cases h
  · rfl
  · rw [State.finishCycle_eq]
    exact (exec_config he).trans hbegin
  · rw [State.finishCycle_eq]
    exact hbegin

/-! ### Every operation -/

/-- An empty record has the reserved bit clear. -/
theorem reserved_none : CycleOut.none.diag.getLsbD 7 = false := by decide

/-- Settles O54: memory lists nothing, the stack is as deep as the parameters say, and the rest is 0. -/
theorem resetMeetsTheInvariant : Obligations.ResetMeetsTheInvariant := by
  intro c
  have hcode : (0 : BitVec 2) ≠ 3 := by decide
  exact ⟨rfl, ⟨List.length_replicate, Nat.zero_le _⟩, ⟨iff_of_false nofun fun h => h rfl, hcode⟩, rfl, reserved_none⟩

/-- Settles O55: a halted block keeps every piece but the record, which it clears; a running one keeps them by the
lemma of each piece, the reserved bit by O16. -/
theorem stepKeepsTheInvariant : Obligations.StepKeepsTheInvariant := by
  intro s t ⟨hwf, hstack, hstatus, hna, _⟩ h
  cases hs : s.halted with
  | true =>
    cases (step_halted hs).symm.trans h
    exact ⟨hwf, hstack, hstatus, hna, reserved_none⟩
  | false =>
    obtain ⟨hwf', hstack'⟩ := step_memStackLegal h ⟨hwf, hstack⟩
    obtain ⟨-, -, -, -, -, -, -, hreserved⟩ := everyCycleReportsItsDiagnostics s t hs h
    exact ⟨hwf', hstack', step_statusLegal hs h hstatus, step_noAdvance hs h, hreserved⟩

theorem State.setKey_inv (h : s.Inv) (k : Nat) (held : Bool) :
    (s.setKey k held).2.Inv ∧ (s.setKey k held).2.config = s.config := by
  obtain hk | hk := Nat.lt_or_ge k 16
  · rw [s.setKey_of_lt hk]
    exact ⟨h, rfl⟩
  · rw [s.setKey_of_le hk]
    exact ⟨h, rfl⟩

/-- A load leaves the state after reset, with the bytes copied into its canonical memory where they fit (R350). -/
theorem State.loadOp_inv (s : State) (bytes : List Byte) :
    (s.loadOp bytes).2.Inv ∧ (s.loadOp bytes).2.config = s.config := by
  obtain ⟨-, hstack, hstatus, hna, hreserved⟩ := resetMeetsTheInvariant s.config
  unfold State.loadOp
  split
  · exact ⟨resetMeetsTheInvariant s.config, rfl⟩
  · have hwf := s.resetOp.copyBytes_wf (Memory.wf_nil _) pcStart bytes
    rw [State.copyBytes_eq]
    exact ⟨⟨hwf, hstack, hstatus, hna, hreserved⟩, rfl⟩

/-- One operation of the host keeps the invariant and the parameters. -/
theorem operate_inv {op : Operation} {r : Reply × State} (hs : s.Inv) (h : operate op s = .next r) :
    r.2.Inv ∧ r.2.config = s.config := by
  cases op with
  | reset => cases h; exact ⟨resetMeetsTheInvariant s.config, rfl⟩
  | load bytes => cases h; exact s.loadOp_inv bytes
  | cycle =>
    obtain ⟨t, ht⟩ := step_answers s
    rw [operate, ht] at h
    cases h
    exact ⟨stepKeepsTheInvariant s t hs ht, step_config ht⟩
  | keyPress k | keyRelease k => cases h; exact State.setKey_inv hs k _
  | hasLoadedProgram | readFramebuffer | readStatus => cases h; exact ⟨hs, rfl⟩

/-- Settles O56, by induction on the operations. -/
theorem hostOperationsKeepTheInvariant : Obligations.HostOperationsKeepTheInvariant := by
  intro ops
  induction ops with
  | nil =>
    intro s t hs h
    cases h
    exact ⟨hs, rfl⟩
  | cons op ops ih =>
    intro s t hs h
    obtain ⟨r, hr⟩ := operate_answers op s
    obtain ⟨hinv, hconfig⟩ := operate_inv hs hr
    obtain ⟨hinv', hconfig'⟩ := ih r.2 t hinv ((operateAll_cons hr).symm.trans h)
    exact ⟨hinv', hconfig'.trans hconfig⟩

end Sys2Proof.Machine
end

section
/-!
PROOFS. What the execute stage reads: with other registers, another stack, another random byte and another `FB_DIRTY` in
the state, none of which the instruction reads, it does the same; with it O48, O29, O53 and O52.
-/
namespace Sys2Proof.Machine

variable {i : Instr} {s s' e e' t : State} {v : Vector Byte 16} {st : List Addr} {r : Byte} {d : Bool}

/-! ### Other values in the pieces an instruction may not read -/

/-- The state with other registers, another stack, another random byte and another `FB_DIRTY`. -/
def State.withHidden (s : State) (v : Vector Byte 16) (st : List Addr) (r : Byte) (d : Bool) : State :=
  { s with v := v, stack := st, draw := r, fbDirty := d }

theorem State.v_ext (h : ∀ j, t.reg j = s.reg j) : t.v = s.v := Vector.ext fun k hk => h ⟨k, hk⟩

theorem State.skipIf_withHidden (s : State) (c : Bool) :
    (s.withHidden v st r d).skipIf c = (s.skipIf c).withHidden v st r d := by
  cases c
  · rfl
  · rw [State.skipIf_eq, State.skipIf_eq, if_pos rfl, if_pos rfl, State.setPc_eq, State.setPc_eq]
    rfl

theorem State.jump_withHidden (s : State) (a : Nat) :
    (s.withHidden v st r d).jump a = (s.jump a).withHidden v st r d := by
  rw [State.jump_eq, State.jump_eq, State.setPc_eq, State.setPc_eq]
  rfl

/-- A block store reads the bytes it stores, memory, `I` and the parameters. -/
theorem State.storeBlock_withHidden (s : State) {f g : Nat → Byte} (n : Nat) (hfg : ∀ k, k < n → g k = f k) :
    (s.withHidden v st r d).storeBlock g n = (s.storeBlock f n).withHidden v st r d := by
  induction n with
  | zero => rfl
  | succ n ih =>
    rw [State.storeBlock, State.storeBlock, ih fun k hk => hfg k (Nat.lt_succ_of_lt hk), hfg n (Nat.lt_succ_self n),
      State.memWrite_eq, State.memWrite_eq]
    rfl

theorem State.loadBlock_withHidden (s : State) (n : Nat) :
    (s.withHidden v st r d).loadBlock n =
      (s.loadBlock n).withHidden ((s.withHidden v st r d).loadBlock n).v st r d := by
  rw [State.loadBlock_eq, State.loadBlock_eq s, State.loadBlock_diag, State.loadBlock_diag]
  rfl

/-- A draw of rows reads memory, the framebuffer, `I` and the parameters. -/
theorem State.drawRows_withHidden (s : State) (x0 y0 n : Nat) :
    (s.withHidden v st r d).drawRows x0 y0 n =
      ((s.drawRows x0 y0 n).1.withHidden v st r d, (s.drawRows x0 y0 n).2) := by
  induction n with
  | zero => rfl
  | succ n ih =>
    simp only [State.drawRows, ih, State.memRead_eq]
    rfl

/-! ### The execute stage -/

/-- CALL at any `SP` but the depth, legal or not (R154, notes/assumptions/8.md). -/
theorem exec_call_of_ne (nnn : Addr) (h : s.sp ≠ s.config.stackDepth) :
    exec (.call nnn) s = .next
      { s.push (BitVec.ofNat 12 (s.pc.toNat + 2)) with
        pc := nnn, noAdvance := true
        out := { s.out with diag := diagAfter s.out.diag (pcLeavesMemory (s.pc.toNat + 2)) .pcWrap } } := by
  rw [exec, execCall, if_neg h]
  simp only [State.reportIf_eq, State.jump_addr]
  rfl

/-- From `s` with the other values the instruction ends in `e` with other values again: a register it writes this time
is that of `e`, any other register, the random byte and `FB_DIRTY` are the values put in, and the stack is what it
makes of the stack put in. -/
def ExecAgrees (i : Instr) (s e : State) (v : Vector Byte 16) (st : List Addr) (r : Byte) (d : Bool) : Prop :=
  ∃ v', exec i (s.withHidden v st r d) = .next (e.withHidden v' (i.stackAfter (s.withHidden v st r d)) r d) ∧
    ∀ j : Reg, v'[j] = if i.writesRegNow s j then e.reg j else v[j]

/-- An instruction that writes no register. -/
theorem execAgrees_of_no_reg (hw : ∀ j, i.writesRegNow s j = false)
    (h : exec i (s.withHidden v st r d) = .next (e.withHidden v (i.stackAfter (s.withHidden v st r d)) r d)) :
    ExecAgrees i s e v st r d :=
  ⟨v, h, fun j => by rw [hw, if_neg Bool.false_ne_true]⟩

/-- An instruction that writes one register. -/
theorem execAgrees_of_setReg {u : State} {x : Reg} {b : Byte} (hw : ∀ j, i.writesRegNow s j = decide (j = x))
    (hst : i.stackAfter (s.withHidden v st r d) = st)
    (h : exec i (s.withHidden v st r d) = .next ((u.withHidden v st r d).setReg x b)) :
    ExecAgrees i s (u.setReg x b) v st r d := by
  refine ⟨v.set x b, by rw [hst]; exact h, fun j => ?_⟩
  have hv : (v.set x b)[j] = if j = x then b else v[j] := (u.withHidden v st r d).reg_setReg x j b
  rw [hv, hw, State.reg_setReg]
  by_cases hj : j = x <;> simp [hj]

/-- An instruction that writes a register and then the flag. -/
theorem execAgrees_of_setRegFlag {x : Reg} {b : Byte} {c : Bool}
    (hw : ∀ j, i.writesRegNow s j = (decide (j = x) || decide (j = Reg.vf)))
    (hst : i.stackAfter (s.withHidden v st r d) = st)
    (h : exec i (s.withHidden v st r d) = .next ((s.withHidden v st r d).setRegFlag x b c)) :
    ExecAgrees i s (s.setRegFlag x b c) v st r d := by
  refine ⟨(v.set x b).set Reg.vf (flagByte c), by rw [hst]; exact h, fun j => ?_⟩
  have hv : ((v.set x b).set Reg.vf (flagByte c))[j] = if j = Reg.vf then flagByte c else if j = x then b else v[j] :=
    (s.withHidden v st r d).reg_setRegFlag x j b c
  rw [hv, hw, State.reg_setRegFlag]
  by_cases hvf : j = Reg.vf
  · simp [hvf]
  · by_cases hj : j = x <;> simp [hj, hvf]

/-- The execute stage reads the registers of its row of R23, CALL and RET the stack, RND the random byte, and none of
them `FB_DIRTY`. -/
theorem exec_withHidden (h : exec i s = .next e)
    (hreg : ∀ j, i.readsReg j = true → (s.withHidden v st r d).reg j = s.reg j)
    (hret : i = .ret → 0 < s.sp → (s.withHidden v st r d).stackEntry (s.sp - 1) = s.stackEntry (s.sp - 1))
    (hrnd : ∀ x nn, i = .rnd x nn → r = s.draw) : ExecAgrees i s e v st r d := by
  cases i with
  | cls | sys | ldI => cases h; exact execAgrees_of_no_reg (fun _ => rfl) rfl
  | ldImm | ldVxDt => cases h; exact execAgrees_of_setReg (fun _ => Bool.and_true _) rfl rfl
  | rnd x nn =>
    cases h
    refine execAgrees_of_setReg (fun _ => Bool.and_true _) rfl ?_
    rw [exec, execRnd, hrnd x nn rfl]
    rfl
  | addImm x nn =>
    cases h
    refine execAgrees_of_setReg (fun _ => Bool.and_true _) rfl ?_
    rw [exec, execAddImm, hreg x (decide_eq_true rfl)]
  | ldReg x y =>
    cases h
    refine execAgrees_of_setReg (fun _ => Bool.and_true _) rfl ?_
    rw [exec, execLdReg, hreg y (decide_eq_true rfl)]
  | orReg x y | andReg x y | xorReg x y =>
    cases h
    have hx := hreg x (by simp [Instr.readsReg])
    have hy := hreg y (by simp [Instr.readsReg])
    refine execAgrees_of_setReg (fun _ => Bool.and_true _) rfl ?_
    simp only [exec, execOr, execAnd, execXor, hx, hy]
  | addReg x y | subReg x y | subnReg x y =>
    cases h
    have hx := hreg x (by simp [Instr.readsReg])
    have hy := hreg y (by simp [Instr.readsReg])
    refine execAgrees_of_setRegFlag (fun _ => Bool.and_true _) rfl ?_
    simp only [exec, execAddReg, execSub, execSubn, hx, hy]
  | shr x | shl x =>
    cases h
    have hx := hreg x (decide_eq_true rfl)
    refine execAgrees_of_setRegFlag (fun _ => Bool.and_true _) rfl ?_
    simp only [exec, execShr, execShl, hx]
  | ldDtVx x | ldStVx x | ldF x | addI x =>
    cases h
    have hx := hreg x (decide_eq_true rfl)
    refine execAgrees_of_no_reg (fun _ => rfl) ?_
    simp only [exec, execLdDtVx, execLdStVx, execLdF, execAddI, State.reportIf_eq, hx]
    rfl
  | seImm x | sneImm x | skp x | sknp x =>
    cases h
    have hx := hreg x (decide_eq_true rfl)
    refine execAgrees_of_no_reg (fun _ => rfl) ?_
    simp only [exec, execSeImm, execSneImm, execSkp, execSknp, State.skipIf_withHidden, hx]
    rfl
  | seReg x y | sneReg x y =>
    cases h
    have hx := hreg x (by simp [Instr.readsReg])
    have hy := hreg y (by simp [Instr.readsReg])
    refine execAgrees_of_no_reg (fun _ => rfl) ?_
    simp only [exec, execSeReg, execSneReg, State.skipIf_withHidden, hx, hy]
    rfl
  | jp =>
    cases h
    refine execAgrees_of_no_reg (fun _ => rfl) ?_
    rw [exec, execJp, State.jump_withHidden]
    rfl
  | jpV0 =>
    cases h
    refine execAgrees_of_no_reg (fun _ => rfl) ?_
    rw [exec, execJpV0, State.jump_withHidden, hreg 0 rfl]
    rfl
  | call nnn =>
    refine execAgrees_of_no_reg (fun _ => rfl) ?_
    by_cases hsp : s.sp = s.config.stackDepth
    · have hsp' : (s.withHidden v st r d).sp = (s.withHidden v st r d).config.stackDepth := hsp
      cases (exec_call_of_eq nnn hsp).symm.trans h
      rw [exec_call_of_eq nnn hsp', Instr.stackAfter, if_pos hsp']
      rfl
    · have hsp' : (s.withHidden v st r d).sp ≠ (s.withHidden v st r d).config.stackDepth := hsp
      cases (exec_call_of_ne nnn hsp).symm.trans h
      rw [exec_call_of_ne nnn hsp', Instr.stackAfter, if_neg hsp']
      rfl
  | ret =>
    refine execAgrees_of_no_reg (fun _ => rfl) ?_
    obtain hsp | hsp := s.sp.eq_zero_or_pos
    · have hsp' : (s.withHidden v st r d).sp = 0 := hsp
      cases (exec_ret_of_zero hsp).symm.trans h
      rw [exec_ret_of_zero hsp']
      rfl
    · have hsp' : 0 < (s.withHidden v st r d).sp := hsp
      have hentry : (s.withHidden v st r d).stackEntry ((s.withHidden v st r d).sp - 1) = s.stackEntry (s.sp - 1) :=
        hret rfl hsp
      cases (exec_ret_of_pos hsp).symm.trans h
      rw [exec_ret_of_pos hsp', hentry]
      rfl
  | ldVxK x =>
    have hsame : (s.withHidden v st r d).lowestKey = s.lowestKey := rfl
    cases hkey : s.lowestKey with
    | none =>
      cases (exec_ldVxK_of_none x hkey).symm.trans h
      have hwaits : (Instr.ldVxK x).setsNoAdvance s = true := by rw [setsNoAdvance_ldVxK, hkey]; rfl
      exact execAgrees_of_no_reg (fun j => (writesRegNow_eq_false_iff _ s j).2 (.inr hwaits))
        (exec_ldVxK_of_none x (hsame.trans hkey))
    | some k =>
      cases (exec_ldVxK_of_some x hkey).symm.trans h
      refine execAgrees_of_setReg (fun j => ?_) rfl (exec_ldVxK_of_some x (hsame.trans hkey))
      rw [Instr.writesRegNow, setsNoAdvance_ldVxK, hkey]
      exact Bool.and_true _
  | ldB x =>
    cases h
    refine execAgrees_of_no_reg (fun _ => rfl) ?_
    rw [exec, execLdB, hreg x (decide_eq_true rfl), State.storeBlock_withHidden s 3 fun _ _ => rfl]
    rfl
  | storeRegs x =>
    cases h
    refine execAgrees_of_no_reg (fun _ => rfl) ?_
    have hblock (k : Nat) (hk : k < x.val + 1) :
        (s.withHidden v st r d).reg (blockReg k) = s.reg (blockReg k) := by
      refine hreg _ (decide_eq_true (Fin.le_def.2 ?_))
      have hval : (blockReg k).val = k := Nat.mod_eq_of_lt (by omega)
      omega
    rw [exec, execStoreRegs, State.storeBlock_withHidden s (x.val + 1) hblock]
    rfl
  | loadRegs x =>
    cases h
    refine ⟨_, congrArg _ (s.loadBlock_withHidden (x.val + 1)), fun j => ?_⟩
    have hv := (s.withHidden v st r d).loadBlock_reg (x.val + 1) x.isLt j
    have hw : (Instr.loadRegs x).writesRegNow s j = decide (j.val < x.val + 1) := by
      rw [Instr.writesRegNow, Instr.writesReg, Instr.setsNoAdvance, Bool.not_false, Bool.and_true]
      exact decide_eq_decide.2 Nat.lt_succ_iff.symm
    rw [hw, s.loadBlock_reg _ x.isLt]
    refine Eq.trans hv ?_
    by_cases hj : j.val < x.val + 1
    · simp only [hj, if_true, decide_true]
      rfl
    · simp only [hj, if_false, decide_false, Bool.false_eq_true]
      rfl
  | drw x y n =>
    cases h
    have hx := hreg x (by simp [Instr.readsReg])
    have hy := hreg y (by simp [Instr.readsReg])
    refine execAgrees_of_setReg (u := (s.drawRows (s.reg x).toNat (s.reg y).toNat n.toNat).1.markFbChanged)
      (fun _ => Bool.and_true _) rfl ?_
    simp only [exec, execDrw, hx, hy, State.drawRows_withHidden]
    rfl

/-! ### The random byte, `FB_DIRTY` and the registers -/

/-- With the registers left alone, the instruction makes the same of them. -/
theorem exec_withHidden_regs (h : exec i s = .next e)
    (hret : i = .ret → 0 < s.sp → (s.withHidden s.v st r d).stackEntry (s.sp - 1) = s.stackEntry (s.sp - 1))
    (hrnd : ∀ x nn, i = .rnd x nn → r = s.draw) :
    exec i (s.withHidden s.v st r d) = .next (e.withHidden e.v (i.stackAfter (s.withHidden s.v st r d)) r d) := by
  obtain ⟨v', hexec, hv'⟩ := exec_withHidden (v := s.v) (st := st) (r := r) (d := d) h (fun _ _ => rfl) hret hrnd
  have hv : v' = e.v := State.v_ext (s := e) (t := { e with v := v' }) fun j => by
    refine (hv' j).trans ?_
    cases hw : i.writesRegNow s j
    · exact (exec_reg_unwritten h hw).symm
    · rfl
  rw [hexec, hv]

/-- With the stack left alone, it makes the same of the stack. -/
theorem withHidden_stackAfter (h : exec i s = .next e) :
    i.stackAfter (s.withHidden v s.stack r d) = e.stack := by
  obtain ⟨-, hstack, -, -, -⟩ := exec_frame h
  exact hstack.symm

/-- Only RND meets the random byte, and no instruction `FB_DIRTY`. -/
theorem exec_withHidden_same (h : exec i s = .next e) (hrnd : ∀ x nn, i = .rnd x nn → r = s.draw) :
    exec i (s.withHidden s.v s.stack r d) = .next (e.withHidden e.v e.stack r d) := by
  rw [exec_withHidden_regs (st := s.stack) (r := r) (d := d) h (fun _ _ => rfl) hrnd, withHidden_stackAfter h]

/-- Settles O29: the state with another random byte is the state with that one piece put in. -/
theorem onlyRndReadsTheRandomByte : Obligations.OnlyRndReadsTheRandomByte := by
  intro i s t r hi h
  obtain ⟨-, hdirty, -⟩ := exec_unwritten h
  have hsame := exec_withHidden_same (r := r) (d := s.fbDirty) h fun x nn hrnd => absurd hrnd (hi x nn)
  have ht : t.withHidden t.v t.stack r s.fbDirty = { t with draw := r } := by rw [← hdirty]; rfl
  rw [← ht]
  exact hsame

/-- Settles O48: a register that is not read ends as the instruction writes it, or as it was put in. -/
theorem onlyTheNamedRegistersAreRead : Obligations.OnlyTheNamedRegistersAreRead := by
  intro i s t j b hj h
  obtain ⟨-, hdirty, hdraw, -, -⟩ := exec_unwritten h
  have hreg (k : Reg) (hk : i.readsReg k = true) : (s.setReg j b).reg k = s.reg k := by
    refine s.reg_setReg_ne ?_ b
    rintro rfl
    exact Bool.false_ne_true (hj.symm.trans hk)
  obtain ⟨v', hexec, hv'⟩ := exec_withHidden (v := s.v.set j b) (st := s.stack) (r := s.draw) (d := s.fbDirty) h hreg
    (fun _ _ => rfl) fun _ _ _ => rfl
  rw [withHidden_stackAfter h] at hexec
  have ht : t.withHidden v' t.stack s.draw s.fbDirty = { t with v := v' } := by rw [← hdirty, ← hdraw]; rfl
  have hreg' (k : Reg) :
      State.reg { t with v := v' } k = if i.writesRegNow s k then t.reg k else (s.setReg j b).reg k := hv' k
  refine ⟨{ t with v := v' }, hexec.trans (congrArg _ ht), ?_, fun hwrites hset => ?_, fun hunwritten => ?_⟩
  · have hv : (State.setReg { t with v := v' } j 0).v = (t.setReg j 0).v := State.v_ext fun k => by
      rw [State.reg_setReg, State.reg_setReg, hreg']
      by_cases hk : k = j
      · rw [if_pos hk, if_pos hk]
      · rw [if_neg hk, if_neg hk, s.reg_setReg_ne hk]
        cases hw : i.writesRegNow s k
        · exact (exec_reg_unwritten h hw).symm
        · rfl
    rw [State.setReg_eq, hv]
    rfl
  · have hw : i.writesRegNow s j = true := by rw [Instr.writesRegNow, hwrites, hset]; rfl
    rw [hreg', if_pos hw]
  · rw [hreg', (writesRegNow_eq_false_iff i s j).2 hunwritten, if_neg Bool.false_ne_true, State.reg_setReg_self]

/-! ### A whole step -/

/-- The start of a cycle reads and writes none of the four but the random byte, which it draws. -/
theorem State.beginCycle_withHidden (s : State) :
    (s.withHidden v st r d).beginCycle = s.beginCycle.withHidden v st (Config.freeByte s.draws) d := by
  rw [State.beginCycle_eq, State.beginCycle_eq]
  rfl

theorem State.finishCycle_withHidden (e : State) :
    (e.withHidden v st r d).finishCycle =
      e.finishCycle.withHidden v st r (d || (!e.halted && e.out.fbChanged)) := by
  cases hh : e.halted with
  | true =>
    have hh' : (e.withHidden v st r d).halted = true := hh
    rw [State.finishCycle_halted _ hh, State.finishCycle_halted _ hh', Bool.not_true, Bool.false_and, Bool.or_false]
  | false =>
    have hh' : (e.withHidden v st r d).halted = false := hh
    rw [State.finishCycle_eq_ite hh, State.finishCycle_eq_ite hh', Bool.not_false, Bool.true_and]
    rfl

theorem State.finishCycle_v (e : State) : e.finishCycle.v = e.v := by rw [State.finishCycle_eq]
theorem State.finishCycle_stack (e : State) : e.finishCycle.stack = e.stack := by rw [State.finishCycle_eq]
theorem State.finishCycle_sp (e : State) : e.finishCycle.sp = e.sp := by rw [State.finishCycle_eq]
theorem State.finishCycle_draw (e : State) : e.finishCycle.draw = e.draw := by rw [State.finishCycle_eq]

/-- Where no stack fault goes with a mark, another `FB_DIRTY` takes up the mark like the first. -/
theorem State.finishCycle_withFbDirty (hmark : e.out.fbChanged = true → e.halted = false) :
    (e.withHidden e.v e.stack e.draw d).finishCycle =
      { e.finishCycle with fbDirty := d || e.finishCycle.out.fbChanged } := by
  have hdirty := State.finishCycle_fbDirty_of_running (s := e.withHidden e.v e.stack e.draw d) hmark
  rw [State.finishCycle_withHidden] at hdirty ⊢
  have hkept : (d || (!e.halted && e.out.fbChanged)) = (d || e.finishCycle.out.fbChanged) := by
    rw [State.finishCycle_fbChanged]
    exact hdirty
  rw [hkept, ← e.finishCycle_v, ← e.finishCycle_stack, ← e.finishCycle_draw]
  rfl

/-- Only CLS and DRW mark the framebuffer in a cycle, and neither ends it with a stack fault. -/
theorem exec_beginCycle_mark (hs : s.halted = false) (h : exec i s.beginCycle = .next e) :
    e.out.fbChanged = true → e.halted = false := by
  rw [exec_fbChanged h, State.beginCycle_fbChanged, Bool.or_false]
  intro hi
  rw [exec_halted_of_marksFbChanged hi h, State.beginCycle_halted, hs]

/-- Settles O53: the first stage clears the record, the execute stage does not read `FB_DIRTY`, and the last one adds
the mark of the cycle to it. -/
theorem fbDirtyAndRecordAreInvisible : Obligations.FbDirtyAndRecordAreInvisible := by
  intro s t dirty o h
  have hbegin : State.beginCycle { s with fbDirty := dirty, out := o } =
      s.beginCycle.withHidden s.beginCycle.v s.beginCycle.stack s.beginCycle.draw dirty := by
    rw [State.beginCycle_eq, State.beginCycle_eq]
    rfl
  obtain ⟨hs, rfl⟩ | ⟨hs, i, e, hd, he, rfl⟩ | ⟨hs, err, hd, rfl⟩ := step_cases h
  · have hs' : State.halted { s with fbDirty := dirty, out := o } = true := hs
    rw [step_halted hs']
    simp [State.idleCycle, CycleOut.none]
  · have hs' : State.halted { s with fbDirty := dirty, out := o } = false := hs
    have he' : exec i (State.beginCycle { s with fbDirty := dirty, out := o }) =
        .next (e.withHidden e.v e.stack e.draw dirty) := by
      obtain ⟨-, -, hdraw, -⟩ := exec_unwritten he
      rw [hbegin, hdraw]
      exact exec_withHidden_same he fun _ _ _ => rfl
    rw [step_of_exec hs' hd he', State.finishCycle_withFbDirty (exec_beginCycle_mark hs he)]
  · have hs' : State.halted { s with fbDirty := dirty, out := o } = false := hs
    have hmark : s.beginCycle.executeUnrecognized.out.fbChanged = false := s.beginCycle_fbChanged
    have hlast := State.finishCycle_withFbDirty (e := s.beginCycle.executeUnrecognized) (d := dirty) fun hc =>
      absurd (hmark.symm.trans hc) Bool.false_ne_true
    rw [step_unrecognized hs' hd, hbegin]
    exact congrArg _ hlast

/-! ### The stack at and above `SP` -/

theorem State.agreeBelowSp_iff (s s' : State) :
    s.AgreeBelowSp s' ↔ ∃ st, s' = s.withHidden s.v st s.draw s.fbDirty ∧ st.length = s.stack.length ∧
      ∀ k, k < s.sp → st.getD k 0 = s.stack.getD k 0 := by
  constructor
  · rintro ⟨hs', hlen, hst⟩
    exact ⟨s'.stack, hs', hlen, hst⟩
  · rintro ⟨st, rfl, hlen, hst⟩
    exact ⟨rfl, hlen, hst⟩

/-- CALL and RET keep two stacks in agreement below `SP`: a push adds the same entry to both, a pop lowers `SP`. -/
theorem stackAfter_agree (i : Instr) (hlegal : s.StackLegal) (hlen : st.length = s.stack.length)
    (hst : ∀ k, k < s.sp → st.getD k 0 = s.stack.getD k 0) :
    (i.stackAfter (s.withHidden v st r d)).length = (i.stackAfter s).length ∧
      ∀ k, k < i.spAfter s → (i.stackAfter (s.withHidden v st r d)).getD k 0 = (i.stackAfter s).getD k 0 := by
  cases i with
  | call nnn =>
    simp only [Instr.stackAfter, Instr.spAfter]
    by_cases hsp : s.sp = s.config.stackDepth
    · have hsp' : (s.withHidden v st r d).sp = (s.withHidden v st r d).config.stackDepth := hsp
      rw [if_pos hsp, if_pos hsp, if_pos hsp']
      exact ⟨hlen, hst⟩
    · have hsp' : (s.withHidden v st r d).sp ≠ (s.withHidden v st r d).config.stackDepth := hsp
      obtain ⟨hdepth, hle⟩ := hlegal
      have hroom : s.sp < s.stack.length := by omega
      have hroom' : (s.withHidden v st r d).sp < (s.withHidden v st r d).stack.length := hroom.trans_eq hlen.symm
      rw [if_neg hsp, if_neg hsp, if_neg hsp', List.length_set, List.length_set]
      refine ⟨hlen, fun k hk => ?_⟩
      by_cases hks : k = s.sp
      · rw [hks]
        exact (State.stackEntry_push_self hroom' _).trans (State.stackEntry_push_self hroom _).symm
      · have hbelow : k < s.sp := by omega
        exact (State.stackEntry_push_ne (s := s.withHidden v st r d) hks _).trans
          ((hst k hbelow).trans (State.stackEntry_push_ne hks _).symm)
  | ret => exact ⟨hlen, fun k hk => hst k (Nat.lt_of_lt_of_le hk (Nat.sub_le _ _))⟩
  | _ => exact ⟨hlen, hst⟩

theorem exec_agreeBelowSp (h : exec i s = .next e) (hlegal : s.StackLegal) (hagree : s.AgreeBelowSp s') :
    ∃ e', exec i s' = .next e' ∧ e.AgreeBelowSp e' := by
  obtain ⟨st, rfl, hlen, hst⟩ := (s.agreeBelowSp_iff s').1 hagree
  obtain ⟨-, hstack, hsp, -, -⟩ := exec_frame h
  obtain ⟨-, hdirty, hdraw, -⟩ := exec_unwritten h
  refine ⟨_, exec_withHidden_regs h (fun _ hpos => hst _ (Nat.sub_lt hpos Nat.one_pos)) fun _ _ _ => rfl, ?_⟩
  rw [State.agreeBelowSp_iff, hstack, hsp, hdraw, hdirty]
  exact ⟨_, rfl, stackAfter_agree i hlegal hlen hst⟩

theorem State.beginCycle_agreeBelowSp (hagree : s.AgreeBelowSp s') : s.beginCycle.AgreeBelowSp s'.beginCycle := by
  obtain ⟨st, rfl, hlen, hst⟩ := (s.agreeBelowSp_iff s').1 hagree
  rw [State.beginCycle_withHidden, State.agreeBelowSp_iff, State.beginCycle_eq]
  exact ⟨st, rfl, hlen, hst⟩

theorem State.finishCycle_agreeBelowSp (hagree : e.AgreeBelowSp e') : e.finishCycle.AgreeBelowSp e'.finishCycle := by
  obtain ⟨st, rfl, hlen, hst⟩ := (e.agreeBelowSp_iff e').1 hagree
  rw [State.finishCycle_withHidden, State.agreeBelowSp_iff, ← State.finishCycle_fbDirty, State.finishCycle_v,
    State.finishCycle_stack, State.finishCycle_sp, State.finishCycle_draw]
  exact ⟨st, rfl, hlen, hst⟩

theorem State.idleCycle_agreeBelowSp (hagree : s.AgreeBelowSp s') : s.idleCycle.AgreeBelowSp s'.idleCycle := by
  obtain ⟨st, rfl, hlen, hst⟩ := (s.agreeBelowSp_iff s').1 hagree
  exact ⟨rfl, hlen, hst⟩

theorem State.executeUnrecognized_agreeBelowSp (hagree : s.AgreeBelowSp s') :
    s.executeUnrecognized.AgreeBelowSp s'.executeUnrecognized := by
  obtain ⟨st, rfl, hlen, hst⟩ := (s.agreeBelowSp_iff s').1 hagree
  exact ⟨rfl, hlen, hst⟩

theorem State.beginCycle_stackLegal (h : s.StackLegal) : s.beginCycle.StackLegal := by
  rw [State.beginCycle_eq]
  exact h

/-- Settles O52: every stage keeps the agreement, and the fetch does not see the stack. -/
theorem stackAboveSpIsUnobservable : Obligations.StackAboveSpIsUnobservable := by
  intro s s' t hlegal hagree h
  have hbegin := State.beginCycle_agreeBelowSp hagree
  have hsame := hagree.1
  have hfetch : s'.fetchWord = s.fetchWord := by rw [hsame]; rfl
  have hhalted : s'.halted = s.halted := by rw [hsame]
  obtain ⟨hs, rfl⟩ | ⟨hs, i, e, hd, he, rfl⟩ | ⟨hs, err, hd, rfl⟩ := step_cases h
  · exact ⟨_, step_halted (hhalted.trans hs), State.idleCycle_agreeBelowSp hagree⟩
  · obtain ⟨e', he', hagree'⟩ := exec_agreeBelowSp he (State.beginCycle_stackLegal hlegal) hbegin
    exact ⟨_, step_of_exec (hhalted.trans hs) (hfetch ▸ hd) he', State.finishCycle_agreeBelowSp hagree'⟩
  · exact ⟨_, step_unrecognized (hhalted.trans hs) (hfetch ▸ hd),
      State.finishCycle_agreeBelowSp (State.executeUnrecognized_agreeBelowSp hbegin)⟩

end Sys2Proof.Machine
end
